-- ==== Sys2Proof/Word.lean ====
section
/-! DEFINITION. The words of the block: unsigned vectors of the stated widths, bit 0 the least significant
(spec/00_scope.md R6, R8). -/

namespace Sys2Proof

/-- `W_FAMILY` and `W_CRC` bits (R6); also one byte of the ROM code on the wire (R48). -/
abbrev Byte := BitVec 8

/-- `W_WORD` bits: each of the two inputs (R6). -/
abbrev Word32 := BitVec 32

/-- 24 bits: one of the two pieces of the serial, `serial_upper_piece` and `serial_lower_piece` of the table (R46, R47). -/
abbrev Piece := BitVec 24

/-- `W_SERIAL` bits: the serial number and its two nets (R6, D3). -/
abbrev Word48 := BitVec 48

/-- `W_ROM` bits: the whole ROM code (R6). -/
abbrev Word64 := BitVec 64

end Sys2Proof
end

