-- ==== Sys2Proof/Syntax.lean ====
section
/-! DEFINITION. The operations: one constructor per row of spec/opcode_table.json. No bit of the input selects an
operation (spec/30_encoding.md R44), so an `Instr` is an operation TOGETHER WITH the input values it is evaluated on,
the left side of a vector line of R55: "the model takes `(high, low)` as arguments" (D13). Log entry 2. -/

namespace Sys2Proof

inductive Instr where
  /-- COMBINE, R58. -/
  | combine (high low : Word32)
  /-- EXT.FAMILY, R59. -/
  | extFamily (low : Word32)
  /-- EXT.CRC, R60. -/
  | extCrc (high : Word32)
  /-- EXT.SERIAL.HI, R61. -/
  | extSerialHi (high : Word32)
  /-- EXT.SERIAL.LO, R62. -/
  | extSerialLo (low : Word32)
  /-- EXT.SERIAL, R63: its operands are the two pieces of `SERIAL48`, the bits of the two nets that can be non-zero
  (R19): `serial_upper` carries `{upper, 24 zeros}`, `serial_lower` carries `{24 zeros, lower}`. -/
  | extSerial (upper lower : Piece)
  /-- DECODE, R64: the block's function. -/
  | decode (high low : Word32)
  /-- DECODE64, R65: the same function stated on the 64-bit word. -/
  | decode64 (combined : Word64)
  /-- PACK, R77. The source types `serial` as `u64` (C3): the operand is 64 bits wide and is refused outside
  its domain `serial < 2^48` (R82). -/
  | pack (family : Byte) (serial : Word64) (crc : Byte)
  /-- SPLIT, R78. -/
  | split (combined : Word64)
  /-- ENCODE, R79: operands as PACK. -/
  | encode (family : Byte) (serial : Word64) (crc : Byte)
  deriving DecidableEq, Repr

end Sys2Proof
end

