-- ==== Sys2Proof/WellFormed.lean ====
section
/-! DEFINITION. Which operand values an operation admits. -/

namespace Sys2Proof

/-- The domain of PACK and ENCODE: `serial < 2^48` (spec/41_reference_pack_split.md R82). -/
def serialInDomain (serial : Word64) : Bool := decide (serial.toNat < 2 ^ 48)

/-- The operands an operation admits: every value (R53), but for the domain of PACK and ENCODE (R82). -/
def Instr.wellFormed : Instr → Bool
  | .combine _ _ => true
  | .extFamily _ => true
  | .extCrc _ => true
  | .extSerialHi _ => true
  | .extSerialLo _ => true
  | .extSerial _ _ => true
  | .decode _ _ => true
  | .decode64 _ => true
  | .pack _ serial _ => serialInDomain serial
  | .split _ => true
  | .encode _ serial _ => serialInDomain serial

end Sys2Proof
end

