-- ==== Sys2Proof/Decode.lean ====
section
/-! DEFINITION. Words and bytes to operations and back. No bit selects an operation (spec/30_encoding.md R44, R52:
every row has mask 0), so a word is read AS a row of the table (`decodeRow`); the block itself reads every 64-bit word
as DECODE of the pair it holds (`decode`, R44, R53, R54). Bytes stand in wire order: byte `k` is bits `8k+7` to `8k`,
family first (R31, R48). Log entries 7 and 8. -/

namespace Sys2Proof

/-- The rows of spec/opcode_table.json, in its order. -/
inductive Row where
  | combine
  | extFamily
  | extCrc
  | extSerialHi
  | extSerialLo
  | extSerial
  | decode
  | decode64
  | pack
  | split
  | encode
  deriving DecidableEq, Repr

/-- Why bytes are not an operation. -/
inductive DecodeError where
  /-- Fewer bytes than the row's width. Every pattern of the full width is legal (R53). -/
  | tooShort (row : Row)
  deriving DecidableEq, Repr

/-- How many bytes the table gives the row (its `width` over 8). -/
def Row.bytes : Row → Nat
  | .combine => 8
  | .extFamily => 4
  | .extCrc => 4
  | .extSerialHi => 4
  | .extSerialLo => 4
  | .extSerial => 6
  | .decode => 8
  | .decode64 => 8
  | .pack => 8
  | .split => 8
  | .encode => 8

/-- The row an operation belongs to. -/
def Instr.row : Instr → Row
  | .combine _ _ => .combine
  | .extFamily _ => .extFamily
  | .extCrc _ => .extCrc
  | .extSerialHi _ => .extSerialHi
  | .extSerialLo _ => .extSerialLo
  | .extSerial _ _ => .extSerial
  | .decode _ _ => .decode
  | .decode64 _ => .decode64
  | .pack _ _ _ => .pack
  | .split _ => .split
  | .encode _ _ _ => .encode

/-- Field `high` of `ROM64`: bits 63:32 (R30, R46). -/
def highField (w : Word64) : Word32 := w.extractLsb' 32 32

/-- Field `low` of `ROM64`, and the whole of `HIGH32` and `LOW32`: bits 31:0 (R30, R46, R47). -/
def lowField (w : Word64) : Word32 := w.extractLsb' 0 32

/-- Field `family` of `ROM64`: bits 7:0 (R45). -/
def familyField (w : Word64) : Byte := w.extractLsb' 0 8

/-- Field `serial` of `ROM64`: bits 55:8 (R45), as the 64-bit operand of PACK and ENCODE (C3). -/
def serialField (w : Word64) : Word64 := (w.extractLsb' 8 48).setWidth 64

/-- Field `crc` of `ROM64`: bits 63:56 (R45). -/
def crcField (w : Word64) : Byte := w.extractLsb' 56 8

/-- Field `serial_upper_piece` of `SERIAL48`: bits 47:24 (R63). -/
def upperPieceField (w : Word64) : Piece := w.extractLsb' 24 24

/-- Field `serial_lower_piece` of `SERIAL48`: bits 23:0 (R63). -/
def lowerPieceField (w : Word64) : Piece := w.extractLsb' 0 24

/-- A word read as a row of the table; bits above the row's width are not looked at. -/
def readRow : Row → Word64 → Instr
  | .combine, w => .combine (highField w) (lowField w)
  | .extFamily, w => .extFamily (lowField w)
  | .extCrc, w => .extCrc (lowField w)
  | .extSerialHi, w => .extSerialHi (lowField w)
  | .extSerialLo, w => .extSerialLo (lowField w)
  | .extSerial, w => .extSerial (upperPieceField w) (lowerPieceField w)
  | .decode, w => .decode (highField w) (lowField w)
  | .decode64, w => .decode64 w
  | .pack, w => .pack (familyField w) (serialField w) (crcField w)
  | .split, w => .split w
  | .encode, w => .encode (familyField w) (serialField w) (crcField w)

/-- What the block reads from the 64 bits on its input ports: always DECODE of the pair (R44, R53). -/
def decodeRom (w : Word64) : Instr := readRow .decode w

/-- `n` bytes in wire order as a number: the first byte is the least significant (R31). -/
def fromWire : List Byte → Nat
  | [] => 0
  | b :: bs => b.toNat + 256 * fromWire bs

/-- The low `n` bytes of a number in wire order (R31). -/
def toWire : Nat → Nat → List Byte
  | 0, _ => []
  | n + 1, v => BitVec.ofNat 8 v :: toWire n (v / 256)

/-- The first `n` bytes and the rest; none where there are fewer. -/
def takeBytes : Nat → List Byte → Option (List Byte × List Byte)
  | 0, bs => some ([], bs)
  | _ + 1, [] => none
  | n + 1, b :: bs =>
    match takeBytes n bs with
    | some (front, rest) => some (b :: front, rest)
    | none => none

/-- Bytes in wire order read as a row of the table, with the bytes that are left. -/
def decodeRow (row : Row) (bs : List Byte) : Except DecodeError (Instr × List Byte) :=
  match takeBytes row.bytes bs with
  | some (front, rest) => .ok (readRow row (BitVec.ofNat 64 (fromWire front)), rest)
  | none => .error (.tooShort row)

/-- The block's own decoder: eight bytes in wire order are DECODE of the pair they hold (R44, R48, R54). -/
def decode (bs : List Byte) : Except DecodeError (Instr × List Byte) := decodeRow .decode bs

/-- The word of an operation in its row's layout, zero above the row's width (R45 to R47, R55). A PACK or ENCODE whose
serial is 2^48 or more is not well formed and has no word in the spec (R55, R82): the word given here for it, its serial cut
to bits 47:0, is the MODEL'S OWN and reads back as another operation. DESIGN CHOICE, unsafe for a claim about that word: log
entry 18. -/
def wordOf : Instr → Word64
  | .combine high low => high ++ low
  | .extFamily low => low.setWidth 64
  | .extCrc high => high.setWidth 64
  | .extSerialHi high => high.setWidth 64
  | .extSerialLo low => low.setWidth 64
  | .extSerial upper lower => (upper ++ lower : Word48).setWidth 64
  | .decode high low => high ++ low
  | .decode64 combined => combined
  | .pack family serial crc => crc ++ serial.extractLsb' 0 48 ++ family
  | .split combined => combined
  | .encode family serial crc => crc ++ serial.extractLsb' 0 48 ++ family

/-- The bytes of an operation, in wire order; those of an operation that is not well formed as `wordOf` says. -/
def encode (i : Instr) : List Byte := toWire i.row.bytes (wordOf i).toNat

/-- For the host: what the block's decoder reads from the bits `w` of a row of `nbits` bits, every bit above `nbits`
zero. A row shorter than 64 bits is laid out from bit 0, so the block reads it as DECODE of a pair whose upper bits are
0 (R44: "The input is always 64 bits"). Log entry 7. -/
def decodeTableWord (nbits w : Nat) : Option Instr :=
  if nbits ≤ 64 then
    match decode (toWire 8 (w % 2 ^ nbits)) with
    | .ok (i, _) => some i
    | .error _ => none
  else none

end Sys2Proof
end

