-- ==== Sys2Proof/Config.lean ====
section
/-! DEFINITION. What the spec leaves open, as constants with no body: nothing in Lean can learn their value. -/

namespace Sys2Proof

/-- What the environment drives on the input ports `(high, low)` right after reset: the open parameter `INPUT_PAIR` of
spec/92_eei_decisions.md D13. "A model does not pick zero, all ones or any other value for it" (R100).
DESIGN CHOICE, safe: log entry 4. -/
opaque Config.inputPair : Word32 × Word32

/-- The value the environment writes to `GO_COMMAND`: in no source (spec/91_not_in_source.md N4).
DESIGN CHOICE, safe: log entry 13. -/
opaque Config.goValue : Word32

/-- The `default` argument of the environment's `read_register`: meaning and value in no source
(spec/91_not_in_source.md N6). DESIGN CHOICE, safe: log entry 13. -/
opaque Config.readDefault : Word32

end Sys2Proof
end

