-- ==== Sys2Proof/Machine/Operands.lean ====
section
/-! DEFINITION. The pure operations on words: one definition per rule of spec/40_extract.md and
spec/41_reference_pack_split.md, each in the rule's own pseudocode. Every shift is logical, every value unsigned
(R8, R9, R110), and every left shift is done at a width that holds its result (R109). -/

namespace Sys2Proof.Machine

/-- The two result words of one search (RawSearchResult, spec/00_scope.md glossary). -/
structure RawSearchResult where
  high : Word32
  low : Word32
  deriving DecidableEq, Repr

/-- The decoded ROM code: the three outputs together (RomCode, spec/10_state.md R17). -/
structure RomCode where
  family : Byte
  serial : Word48
  crc : Byte
  deriving DecidableEq, Repr

/-- R58: `(zext_64(high) << 32) | zext_64(low)`. -/
def combineWords (high low : Word32) : Word64 := (high.setWidth 64 <<< 32) ||| low.setWidth 64

/-- R59: `trunc_8(low & 0x000000FF)`. -/
def familyOf (low : Word32) : Byte := (low &&& 0x000000FF#32).setWidth 8

/-- R60: `trunc_8((high >> 24) & 0x000000FF)`. -/
def crcOf (high : Word32) : Byte := ((high >>> 24) &&& 0x000000FF#32).setWidth 8

/-- R61: `zext_48(high & 0x00FFFFFF) << 24`; the widening comes before the shift (R109). -/
def serialUpperOf (high : Word32) : Word48 := (high &&& 0x00FFFFFF#32).setWidth 48 <<< 24

/-- R62: `zext_48((low & 0xFFFFFF00) >> 8)`; the shift is logical (R110). -/
def serialLowerOf (low : Word32) : Word48 := ((low &&& 0xFFFFFF00#32) >>> 8).setWidth 48

/-- R63: `upper | lower`. -/
def joinSerial (upper lower : Word48) : Word48 := upper ||| lower

/-- R64: the block's function. -/
def decodeWords (high low : Word32) : RomCode where
  family := familyOf low
  serial := joinSerial (serialUpperOf high) (serialLowerOf low)
  crc := crcOf high

/-- R65: the same function by bit positions, the definition DECODE64 is stated by: `trunc_8(combined & 0xFF)`,
`trunc_48(combined >> 8)`, `trunc_8(combined >> 56)`. -/
def decodeCombined (combined : Word64) : RomCode where
  family := (combined &&& 0x00000000000000FF#64).setWidth 8
  serial := (combined >>> 8).setWidth 48
  crc := (combined >>> 56).setWidth 8

/-- R77: `(zext_64(crc) << 56) | (zext_64(serial) << 8) | zext_64(family)`. -/
def packFields (family : Byte) (serial : Word48) (crc : Byte) : Word64 :=
  (crc.setWidth 64 <<< 56) ||| (serial.setWidth 64 <<< 8) ||| family.setWidth 64

/-- R78: `trunc_32(combined >> 32)` and `trunc_32(combined & 0x00000000FFFFFFFF)`. -/
def splitWord (combined : Word64) : RawSearchResult where
  high := (combined >>> 32).setWidth 32
  low := (combined &&& 0x00000000FFFFFFFF#64).setWidth 32

/-- R79: `SPLIT(PACK(family, serial, crc))`. -/
def encodeFields (family : Byte) (serial : Word48) (crc : Byte) : RawSearchResult :=
  splitWord (packFields family serial crc)

/-- R82: the serial operand of PACK and ENCODE as a `u48`, none outside the domain `serial < 2^48`; it is never
masked silently. -/
def serial48? (serial : Word64) : Option Word48 :=
  if serial.toNat < 2 ^ 48 then some (serial.setWidth 48) else none

end Sys2Proof.Machine
end

