-- ==== Sys2Proof/Machine/State.lean ====
section
/-! DEFINITION. The state. The block's own is the unit type (spec/00_scope.md R12, spec/10_state.md R13); the host's
interface gives a step nothing but a State, so the State holds beside it the block's ARGUMENTS, the pair the environment
drives on the input ports (R12, R16, D13), and the results of the test bench's reference functions (R76). No output and
no net is held: Machine/Ops.lean computes them from the pair (R10). Log entries 1 and 3. -/

namespace Sys2Proof.Machine

/-- The block's state: "In a model the block's state type is the unit type" (R13). -/
abbrev BlockState := Unit

/-- The block, what its environment drives on its ports, and what the reference functions last gave. -/
structure State where
  /-- The block: it keeps nothing (R13, R25). -/
  block : BlockState
  /-- The environment's: what it drives on the input port `high` (R16). -/
  high : Word32
  /-- The environment's: what it drives on the input port `low` (R16). -/
  low : Word32
  /-- The model's own, the test bench's: `combined` as PACK gave it (R77). -/
  refCombined : Word64
  /-- The model's own, the test bench's: `high` as SPLIT or ENCODE gave it (R78, R79). -/
  refHigh : Word32
  /-- The model's own, the test bench's: `low` as SPLIT or ENCODE gave it (R78, R79). -/
  refLow : Word32
  deriving DecidableEq, Repr

/-- The block raises no exception, for any input, ever (spec/60_exceptions.md R83): there is no fault, so nothing
raises one. -/
inductive Fault where
  deriving DecidableEq, Repr

/-- Why an operation is not run. -/
inductive Refusal where
  /-- Raised by an arm of `exec` whose operation has no meaning yet; no arm does. Safe: the model stops. -/
  | notModelled (mnemonic : String)
  /-- Raised by PACK and ENCODE for a `serial` outside `serial < 2^48`, which "is outside the domain of `PACK` and a
  model refuses it" (spec/41_reference_pack_split.md R77, R82). Safe: the model stops where the source gives no
  meaning. -/
  | serialOutOfDomain (serial : Word64)
  deriving DecidableEq, Repr

/-- Right after reset. The block has no reset and nothing a reset could set (spec/70_reset_and_hazards.md R98): what the
environment drives is free (R27, R100), so outputs and nets are what they always are, the functions of that pair (R99).
The results of the reference functions are 0: DESIGN CHOICE, log entry 3. -/
def State.reset : State where
  block := ()
  high := Config.inputPair.1
  low := Config.inputPair.2
  refCombined := 0#64
  refHigh := 0#32
  refLow := 0#32

end Sys2Proof.Machine
end

