-- ==== Sys2Proof/Machine/Ops.lean ====
section
/-! DEFINITION. The named operations over ports, nets and reference results. There is no register, memory, exception
or trap to operate on (spec/10_state.md R13 to R15, spec/20_memory.md R28, spec/60_exceptions.md R83, R87, R88).

`out.p <- v` "says that the port carries `v` for as long as the inputs make the right-hand side equal `v`, not that `v` is
stored" (spec/00_scope.md R10): every output and net is therefore a function of the state's input pair, one definition
each, and follows a change of the inputs at once (spec/20_memory.md R41, spec/70_reset_and_hazards.md R112). -/

namespace Sys2Proof.Machine

/-- `net.combined <- …` of R58, from the input ports. -/
def State.combined (s : State) : Word64 := combineWords s.high s.low

/-- `out.family <- …` of R59, from the input port `low`. -/
def State.family (s : State) : Byte := familyOf s.low

/-- `out.crc <- …` of R60, from the input port `high`. -/
def State.crc (s : State) : Byte := crcOf s.high

/-- `net.serial_upper <- …` of R61, from the input port `high`. -/
def State.serialUpper (s : State) : Word48 := serialUpperOf s.high

/-- `net.serial_lower <- …` of R62, from the input port `low`. -/
def State.serialLower (s : State) : Word48 := serialLowerOf s.low

/-- `out.serial <- …` of R63, from the two nets. -/
def State.serial (s : State) : Word48 := joinSerial s.serialUpper s.serialLower

/-- SAMPLE: the environment reads the three outputs; reading changes nothing (spec/20_memory.md R35, R97). -/
def State.sample (s : State) : RomCode := ⟨s.family, s.serial, s.crc⟩

/-- The environment drives the port `high`. -/
def State.presentHigh (s : State) (high : Word32) : State := { s with high := high }

/-- The environment drives the port `low`. -/
def State.presentLow (s : State) (low : Word32) : State := { s with low := low }

/-- PRESENT: the environment drives both input ports with one pair (spec/30_encoding.md R55, spec/60_exceptions.md
R97); no byte swap, no masking (spec/20_memory.md R29). -/
def State.present (s : State) (high low : Word32) : State := (s.presentHigh high).presentLow low

/-- The environment drives the port bits that make the two serial nets carry these pieces, `high[23:0]` and `low[31:8]`
(R61, R62); the crc bits of `high` and the family bits of `low` stay. -/
def State.presentPieces (s : State) (upper lower : Piece) : State :=
  s.present (s.high.extractLsb' 24 8 ++ upper) (lower ++ s.low.extractLsb' 0 8)

/-- The test bench's two words, as SPLIT or ENCODE left them. -/
def State.refWords (s : State) : RawSearchResult := ⟨s.refHigh, s.refLow⟩

/-- PACK leaves its result (R77). -/
def State.setRefCombined (s : State) (combined : Word64) : State := { s with refCombined := combined }

/-- SPLIT and ENCODE leave their two results (R78, R79). -/
def State.setRefWords (s : State) (r : RawSearchResult) : State := { s with refHigh := r.high, refLow := r.low }

/-- The 64 bits the input ports carry, `{high, low}` (spec/20_memory.md R30): what a step decodes. -/
def State.fetch (s : State) : Word64 := s.high ++ s.low

end Sys2Proof.Machine
end

