-- ==== Sys2Proof/Machine/Extract.lean ====
section
/-! DEFINITION. The extraction operations of spec/40_extract.md, one meaning each. "All operations of this file are
evaluated together, continuously and unconditionally" (R57): what an operation drives is the definition of its output or
net in Machine/Ops.lean, always in force, so to evaluate an operation on given operands is to present them where it reads
them (R55: a vector line; log entry 2), and its output or net then carries the result. None has a flag, an exception or a
side effect. -/

namespace Sys2Proof.Machine

/-- COMBINE, R58: `State.combined` then carries `{high, low}`. -/
def execCombine (high low : Word32) (s : State) : Host.Outcome State Fault Refusal := .next (s.present high low)

/-- EXT.FAMILY, R59: `State.family` then carries `low[7:0]`. -/
def execExtFamily (low : Word32) (s : State) : Host.Outcome State Fault Refusal := .next (s.presentLow low)

/-- EXT.CRC, R60: `State.crc` then carries `high[31:24]`, unchecked. -/
def execExtCrc (high : Word32) (s : State) : Host.Outcome State Fault Refusal := .next (s.presentHigh high)

/-- EXT.SERIAL.HI, R61: `State.serialUpper` then carries `high[23:0]` in its upper half. -/
def execExtSerialHi (high : Word32) (s : State) : Host.Outcome State Fault Refusal := .next (s.presentHigh high)

/-- EXT.SERIAL.LO, R62: `State.serialLower` then carries `low[31:8]` in its lower half. -/
def execExtSerialLo (low : Word32) (s : State) : Host.Outcome State Fault Refusal := .next (s.presentLow low)

/-- EXT.SERIAL, R63: `State.serial` then carries the OR of the two nets. -/
def execExtSerial (upper lower : Piece) (s : State) : Host.Outcome State Fault Refusal :=
  .next (s.presentPieces upper lower)

/-- DECODE, R64: `State.sample` is then the decode of the pair. -/
def execDecode (high low : Word32) (s : State) : Host.Outcome State Fault Refusal := .next (s.present high low)

/-- DECODE64, R65: "`DECODE` with `high = combined[63:32]`, `low = combined[31:0]`" (spec/30_encoding.md R56). -/
def execDecode64 (combined : Word64) (s : State) : Host.Outcome State Fault Refusal :=
  .next (s.present (splitWord combined).high (splitWord combined).low)

end Sys2Proof.Machine
end

