-- ==== Sys2Proof/Machine/Reference.lean ====
section
/-! DEFINITION. The reference functions of spec/41_reference_pack_split.md, one meaning each: test-bench functions, no
hardware (R76), so no port and no net is touched. -/

namespace Sys2Proof.Machine

/-- PACK, R77; refused outside its domain (R82). -/
def execPack (family : Byte) (serial : Word64) (crc : Byte) (s : State) : Host.Outcome State Fault Refusal :=
  match serial48? serial with
  | some serial48 => .next (s.setRefCombined (packFields family serial48 crc))
  | none => .refused (.serialOutOfDomain serial)

/-- SPLIT, R78. -/
def execSplit (combined : Word64) (s : State) : Host.Outcome State Fault Refusal :=
  .next (s.setRefWords (splitWord combined))

/-- ENCODE, R79; refused outside its domain (R82). -/
def execEncode (family : Byte) (serial : Word64) (crc : Byte) (s : State) : Host.Outcome State Fault Refusal :=
  match serial48? serial with
  | some serial48 => .next (s.setRefWords (encodeFields family serial48 crc))
  | none => .refused (.serialOutOfDomain serial)

end Sys2Proof.Machine
end

