-- ==== Sys2Proof/Machine/Dispatch.lean ====
section
/-! DEFINITION. One arm per operation, in the order of spec/opcode_table.json. -/

namespace Sys2Proof.Machine

def exec (i : Instr) (s : State) : Host.Outcome State Fault Refusal :=
  match i with
  | .combine high low => Sys2Proof.Machine.execCombine high low s
  | .extFamily low => Sys2Proof.Machine.execExtFamily low s
  | .extCrc high => Sys2Proof.Machine.execExtCrc high s
  | .extSerialHi high => Sys2Proof.Machine.execExtSerialHi high s
  | .extSerialLo low => Sys2Proof.Machine.execExtSerialLo low s
  | .extSerial upper lower => Sys2Proof.Machine.execExtSerial upper lower s
  | .decode high low => Sys2Proof.Machine.execDecode high low s
  | .decode64 combined => Sys2Proof.Machine.execDecode64 combined s
  | .pack family serial crc => Sys2Proof.Machine.execPack family serial crc s
  | .split combined => Sys2Proof.Machine.execSplit combined s
  | .encode family serial crc => Sys2Proof.Machine.execEncode family serial crc s

end Sys2Proof.Machine
end

