-- ==== Sys2Proof/Machine/Step.lean ====
section
/-! DEFINITION. One step: one evaluation of the block on what its input ports carry (spec/40_extract.md R57,
spec/70_reset_and_hazards.md R113). The block has no program counter and nothing to advance (spec/10_state.md R15), and it
keeps nothing (R13): its value is read from the next state's outputs (`State.sample`). -/

namespace Sys2Proof.Machine

/-- The block decodes the 64 bits on its input ports (R44) and its outputs carry their fields; nothing stands around
`exec`. -/
def step (s : State) : Host.Outcome State Fault Refusal := exec (decodeRom s.fetch) s

/-- For the host: the word of a table row stands where the step reads, the input ports: `high` is bits 63:32 and `low`
bits 31:0, every bit above `nbits` zero. This is the environment's PRESENT (R97). Log entry 7. -/
def State.withFetchWord (s : State) (nbits w : Nat) : State :=
  s.present (highField (BitVec.ofNat 64 (w % 2 ^ nbits))) (lowField (BitVec.ofNat 64 (w % 2 ^ nbits)))

end Sys2Proof.Machine
end

