-- ==== Sys2Proof/Machine/Environment.lean ====
section
/-! DEFINITION. The environment of the block as far as the spec describes it: its operations, their outcomes and errors
(spec/10_state.md R22, spec/20_memory.md R37 to R39, spec/60_exceptions.md R92). It is out of scope as hardware
(spec/00_scope.md R4): these are host moves beside the step, and nothing here is state of the block (R40). -/

namespace Sys2Proof.Machine

/-- The controller's eight registers, by logical name (spec/10_state.md R22). Their contents are in no source (N5). -/
inductive RegisterName where
  | dataLinePin
  | pullupDisable
  /-- A recognised name with no stated use (spec/90_conflicts.md C2); no attempt names it. -/
  | busOptions
  | rxByteCount
  | functionSelect
  | goCommand
  | searchResultHigh
  | searchResultLow
  deriving DecidableEq, Repr

/-- The four settings `configure` applies (R102). -/
inductive Setting where
  | dataLine
  | pullupDisable
  | receiveLength
  | searchOpcode
  deriving DecidableEq, Repr

/-- The four calls of the bus controller (R37). -/
inductive Call where
  | openDevice
  | writeRegister (name : RegisterName) (value : Word32)
  | readRegister (name : RegisterName) (default : Word32)
  | closeDevice
  deriving DecidableEq, Repr

/-- The fields of BusConfig the source gives no value for; the receive byte count is fixed (R6, R102). -/
structure BusConfig where
  dataLine : Word32
  pullupDisable : Word32
  searchOpcode : Word32
  deriving DecidableEq, Repr

/-- The operations of the environment: the four calls, and the two operations of BusSearchSession (R37 to R39). -/
inductive EnvOperation where
  | call (c : Call)
  | configure (cfg : BusConfig)
  | executeSearch
  deriving DecidableEq, Repr

/-- What a BusError tells. A failed configuration names "which setting failed" (R92, R102). What a failed
`execute_search` tells is in no source (N19): that it tells the "go" command from a result read, and which result register
was read, is the MODEL'S OWN. DESIGN CHOICE, unsafe for a claim about that payload: log entry 17. -/
inductive BusFailure where
  /-- `configure`: the setting that failed (R102). -/
  | setting (x : Setting)
  /-- `execute_search`: the "go" command was not issued (the model's own payload, log entry 17). -/
  | go
  /-- `execute_search`: the read of this result register failed (the model's own payload, log entry 17). -/
  | result (name : RegisterName)
  deriving DecidableEq, Repr

/-- The four error kinds of R92. -/
inductive EnvError where
  /-- OpenError of `open_device`: device not found, or already open. -/
  | openError
  /-- WriteError of `write_register`. -/
  | writeError
  /-- ReadError of `read_register`. -/
  | readError
  /-- BusError of `configure` and `execute_search`, the umbrella over the two above. -/
  | busError (failure : BusFailure)
  deriving DecidableEq, Repr

/-- What an ENV line says after `->` (spec/30_encoding.md R55). -/
inductive EnvOutcome where
  /-- `ok`. -/
  | ok
  /-- `ok 0x…`: the value a `read_register` gave. -/
  | okWord (value : Word32)
  /-- `ok` with the pair an `execute_search` gave. -/
  | okPair (pair : RawSearchResult)
  /-- `fail(<Error>)`. -/
  | fail (error : EnvError)
  /-- A close that failed: "logged, not fatal" (R95); the source names no error kind for it. DESIGN CHOICE, safe: log
  entry 14. -/
  | closeFailed
  deriving DecidableEq, Repr

/-- `ok 0x…`, of any value. -/
def EnvOutcome.isWord : EnvOutcome → Bool
  | .ok => false
  | .okWord _ => true
  | .okPair _ => false
  | .fail _ => false
  | .closeFailed => false

/-- `ok` with any pair. -/
def EnvOutcome.isPair : EnvOutcome → Bool
  | .ok => false
  | .okWord _ => false
  | .okPair _ => true
  | .fail _ => false
  | .closeFailed => false

/-- The BusError of `configure`, naming any setting. -/
def EnvOutcome.isSettingFailure (o : EnvOutcome) : Bool :=
  decide (o = .fail (.busError (.setting .dataLine))) || decide (o = .fail (.busError (.setting .pullupDisable))) ||
  decide (o = .fail (.busError (.setting .receiveLength))) || decide (o = .fail (.busError (.setting .searchOpcode)))

/-- The BusError of `execute_search` (its payload: log entry 17). -/
def EnvOutcome.isSearchFailure (o : EnvOutcome) : Bool :=
  decide (o = .fail (.busError .go)) || decide (o = .fail (.busError (.result .searchResultHigh))) ||
  decide (o = .fail (.busError (.result .searchResultLow)))

/-- Which outcomes an operation has: its signature (R37 to R39) and who raises which error (R92). -/
def EnvOperation.admits (o : EnvOutcome) : EnvOperation → Bool
  | .call .openDevice => decide (o = .ok) || decide (o = .fail .openError)
  | .call (.writeRegister _ _) => decide (o = .ok) || decide (o = .fail .writeError)
  | .call (.readRegister _ _) => o.isWord || decide (o = .fail .readError)
  | .call .closeDevice => decide (o = .ok) || decide (o = .closeFailed)
  | .configure _ => decide (o = .ok) || o.isSettingFailure
  | .executeSearch => o.isPair || o.isSearchFailure

end Sys2Proof.Machine
end

