-- ==== Sys2Proof/Machine/Script.lean ====
section
/-! DEFINITION. The scripts of spec/30_encoding.md R55: what the environment does, line by line, and what it observes
(the host's moves of spec/60_exceptions.md R97). A script is the host's, not a program of the block, which runs none
(spec/10_state.md R15). -/

namespace Sys2Proof.Machine

/-- One line of a script (R55). What stands after `->` of SAMPLE and ENCODE is what the line's run observes; an ENV
line carries its outcome, which the environment alone decides. -/
inductive ScriptLine where
  /-- PRESENT: drive the input ports with this pair and hold it. -/
  | present (high low : Word32)
  /-- SAMPLE: read the three outputs. -/
  | sample
  /-- ENCODE: the test bench computes R79. -/
  | encode (family : Byte) (serial : Word48) (crc : Byte)
  /-- ENV: an operation of the environment and its outcome, with the error kind of a failure and the value of a read. -/
  | env (operation : EnvOperation) (outcome : EnvOutcome)
  /-- A comment line. -/
  | comment
  deriving DecidableEq, Repr

/-- What a line shows. -/
inductive Observation where
  | sampled (code : RomCode)
  | encoded (words : RawSearchResult)
  | answered (operation : EnvOperation) (outcome : EnvOutcome)
  deriving DecidableEq, Repr

/-- The state after a line: PRESENT changes the input pair, and the outputs follow it (R97, R41); nothing else touches
the block. -/
def ScriptLine.run (s : State) : ScriptLine → State
  | .present high low => s.present high low
  | .sample => s
  | .encode _ _ _ => s
  | .env _ _ => s
  | .comment => s

/-- What a line shows of the state it is read in. -/
def ScriptLine.observe (s : State) : ScriptLine → List Observation
  | .present _ _ => []
  | .sample => [.sampled s.sample]
  | .encode family serial crc => [.encoded (encodeFields family serial crc)]
  | .env operation outcome => [.answered operation outcome]
  | .comment => []

/-- The lines in order: the last state, and what was observed. -/
def runScript : List ScriptLine → State → State × List Observation
  | [], s => (s, [])
  | line :: lines, s =>
    ((runScript lines (line.run s)).1, line.observe s ++ (runScript lines (line.run s)).2)

/-- The pair the ports hold after a line, by the text of the line alone. -/
def ScriptLine.held (pair : RawSearchResult) : ScriptLine → RawSearchResult
  | .present high low => ⟨high, low⟩
  | .sample => pair
  | .encode _ _ _ => pair
  | .env _ _ => pair
  | .comment => pair

/-- The pair the ports hold after the lines: the last one presented, else the pair they held before. -/
def heldPair : List ScriptLine → RawSearchResult → RawSearchResult
  | [], pair => pair
  | line :: lines, pair => heldPair lines (line.held pair)

/-- The call of the bus controller a line makes, if it is one. -/
def ScriptLine.call? : ScriptLine → Option Call
  | .present _ _ => none
  | .sample => none
  | .encode _ _ _ => none
  | .env (.call c) _ => some c
  | .env (.configure _) _ => none
  | .env .executeSearch _ => none
  | .comment => none

end Sys2Proof.Machine
end

