-- ==== Sys2Proof/Machine/Session.lean ====
section
/-! DEFINITION. One read attempt of the environment, from opening the device to closing it, as the script it performs
(spec/60_exceptions.md R86, R93 to R95, spec/70_reset_and_hazards.md R101 to R105). What the bus controller answers to each
call is an input, `BusAnswers`. Log entries 10 to 13, 15 to 17. -/

namespace Sys2Proof.Machine

/-- What the bus controller answers in one attempt, call by call. -/
structure BusAnswers where
  openOk : Bool
  dataLineOk : Bool
  pullupDisableOk : Bool
  receiveLengthOk : Bool
  searchOpcodeOk : Bool
  goOk : Bool
  highRead : Option Word32
  lowRead : Option Word32
  closeOk : Bool
  deriving DecidableEq, Repr

/-- The receive byte count: "fixed at 8 for a ROM code" (R6). -/
def rxByteCount : Word32 := 8#32

/-- The register a setting is written to, by its name (R38; stated by no source, N7: log entry 11). -/
def Setting.register : Setting → RegisterName
  | .dataLine => .dataLinePin
  | .pullupDisable => .pullupDisable
  | .receiveLength => .rxByteCount
  | .searchOpcode => .functionSelect

/-- The value a setting is written with (R102). -/
def Setting.value (cfg : BusConfig) : Setting → Word32
  | .dataLine => cfg.dataLine
  | .pullupDisable => cfg.pullupDisable
  | .receiveLength => rxByteCount
  | .searchOpcode => cfg.searchOpcode

/-- Whether the controller's write of a setting succeeds. -/
def BusAnswers.settingOk (a : BusAnswers) : Setting → Bool
  | .dataLine => a.dataLineOk
  | .pullupDisable => a.pullupDisableOk
  | .receiveLength => a.receiveLengthOk
  | .searchOpcode => a.searchOpcodeOk

/-- The independent write of one setting. -/
def Setting.call (cfg : BusConfig) (x : Setting) : Call := .writeRegister x.register (x.value cfg)

/-- "data-line selection, pull-up-disable, receive-length setting, and search-command opcode", in sequence (R38). -/
def settings : List Setting := [.dataLine, .pullupDisable, .receiveLength, .searchOpcode]

/-- The write that issues the "go" command (R39); its value is in no source (N4). -/
def goCall : Call := .writeRegister .goCommand Config.goValue

/-- The read of one result register (R39). -/
def readCall (name : RegisterName) : Call := .readRegister name Config.readDefault

/-- `ENV open_device`. -/
def openLine (ok : Bool) : ScriptLine := .env (.call .openDevice) (if ok then .ok else .fail .openError)

/-- `ENV write_register`. -/
def writeLine (c : Call) (ok : Bool) : ScriptLine := .env (.call c) (if ok then .ok else .fail .writeError)

/-- `ENV read_register`: `ok` with the value read, or ReadError. -/
def readLine (name : RegisterName) : Option Word32 → ScriptLine
  | some value => .env (.call (readCall name)) (.okWord value)
  | none => .env (.call (readCall name)) (.fail .readError)

/-- `ENV close_device`. -/
def closeLine (ok : Bool) : ScriptLine := .env (.call .closeDevice) (if ok then .ok else .closeFailed)

/-- Writes in sequence; the first that fails ends it (R86). The lines, and the setting that failed. -/
def writeSettings (cfg : BusConfig) (a : BusAnswers) : List Setting → List ScriptLine × Option Setting
  | [] => ([], none)
  | x :: xs =>
    if a.settingOk x then
      (writeLine (x.call cfg) true :: (writeSettings cfg a xs).1, (writeSettings cfg a xs).2)
    else ([writeLine (x.call cfg) false], some x)

/-- `configure(handle, config)` (R102): no rollback, the failed setting reported. -/
def configure (cfg : BusConfig) (a : BusAnswers) : List ScriptLine × Except EnvError Unit :=
  match writeSettings cfg a settings with
  | (lines, none) => (lines, .ok ())
  | (lines, some x) => (lines, .error (.busError (.setting x)))

/-- `execute_search(handle)` (R103): go, then the high and the low result register (log entry 10); the pair is returned
unaltered. -/
def executeSearch (a : BusAnswers) : List ScriptLine × Except EnvError RawSearchResult :=
  if a.goOk then
    match a.highRead, a.lowRead with
    | some high, some low =>
      ([writeLine goCall true, readLine .searchResultHigh (some high), readLine .searchResultLow (some low)],
        .ok ⟨high, low⟩)
    | some high, none =>
      ([writeLine goCall true, readLine .searchResultHigh (some high), readLine .searchResultLow none],
        .error (.busError (.result .searchResultLow)))
    | none, _ =>
      ([writeLine goCall true, readLine .searchResultHigh none], .error (.busError (.result .searchResultHigh)))
  else ([writeLine goCall false], .error (.busError .go))

/-- Step 4 of R101: the pair is presented to the block and its outputs are read; without a pair neither is done (R94). -/
def useLines : Except EnvError RawSearchResult → List ScriptLine
  | .ok pair => [.present pair.high pair.low, .sample]
  | .error _ => []

/-- Steps 2 to 4 of R101: configure, search only if the whole configuration succeeded (R86, R102), present and sample
only if the search did (R94). -/
def session (cfg : BusConfig) (a : BusAnswers) : List ScriptLine × Except EnvError RawSearchResult :=
  match configure cfg a with
  | (lines, .ok ()) => (lines ++ ((executeSearch a).1 ++ useLines (executeSearch a).2), (executeSearch a).2)
  | (lines, .error e) => (lines, .error e)

/-- What one read attempt did and gave. `closeFailed` is reported beside the result and never replaces it (R105). -/
structure Attempt where
  script : List ScriptLine
  result : Except EnvError RawSearchResult
  closeFailed : Bool
  deriving DecidableEq

/-- One read attempt (R101): 1 open, 2 configure, 3 search, 4 present and sample, 5 close. After a successful open the
close is attempted on every path, once (R95, R105); after a failed open there is no handle to close (log entry 12). No call
is retried (R93). -/
def readAttempt (cfg : BusConfig) (a : BusAnswers) : Attempt :=
  if a.openOk then
    { script := openLine true :: ((session cfg a).1 ++ [closeLine a.closeOk])
      result := (session cfg a).2
      closeFailed := !a.closeOk }
  else { script := [openLine false], result := .error .openError, closeFailed := false }

/-- The calls of the bus controller an attempt makes, in order. -/
def Attempt.calls (t : Attempt) : List Call := t.script.filterMap ScriptLine.call?

/-- The state after an attempt: its script has run, and after a failure, which presents no pair (R94), the ports carry
what is in no source (R100): the argument `leftover`, any pair. Log entry 15. -/
def State.afterAttempt (s : State) (t : Attempt) (leftover : RawSearchResult) : State :=
  match t.result with
  | .ok _ => (runScript t.script s).1
  | .error _ => (runScript t.script s).1.present leftover.high leftover.low

end Sys2Proof.Machine
end

