-- ==== Sys2Proof/Safety.lean ====
section
/-! DEFINITION. What the claims say about a state, in terms of bit positions only, so that they do not repeat the
masks and shifts the meanings use. -/

namespace Sys2Proof.Machine

/-- The two serial nets are non-zero only in their own half (spec/10_state.md R19). -/
def State.NetsShaped (s : State) : Prop :=
  s.serialUpper.extractLsb' 0 24 = 0#24 ∧ s.serialLower.extractLsb' 24 24 = 0#24

/-- Every output and net equals the function of the current inputs (R19, R27, R41, R71): `family = low[7:0]`,
`serial = {high[23:0], low[31:8]}`, `crc = high[31:24]`, `combined = {high, low}`. -/
def State.Settled (s : State) : Prop :=
  s.family = s.low.extractLsb' 0 8 ∧
  s.serial = s.high.extractLsb' 0 24 ++ s.low.extractLsb' 8 24 ∧
  s.crc = s.high.extractLsb' 24 8 ∧
  s.combined = s.high ++ s.low ∧
  s.serialUpper = s.high.extractLsb' 0 24 ++ 0#24 ∧
  s.serialLower = 0#24 ++ s.low.extractLsb' 8 24

/-- The ports and nets of the block are the same in both states (the reference results may differ). -/
def State.SameBlock (s t : State) : Prop :=
  t.high = s.high ∧ t.low = s.low ∧ t.family = s.family ∧ t.serial = s.serial ∧ t.crc = s.crc ∧
  t.combined = s.combined ∧ t.serialUpper = s.serialUpper ∧ t.serialLower = s.serialLower

/-- The results of the reference functions are the same in both states (ports and nets may differ). -/
def State.SameReference (s t : State) : Prop := t.refCombined = s.refCombined ∧ t.refWords = s.refWords

/-- The fields of a pair by bit positions (R64: `low[7:0]`, `{high[23:0], low[31:8]}`, `high[31:24]`). -/
def fieldsOf (pair : RawSearchResult) : RomCode :=
  ⟨pair.low.extractLsb' 0 8, pair.high.extractLsb' 0 24 ++ pair.low.extractLsb' 8 24, pair.high.extractLsb' 24 8⟩

/-- What a script shows by the text of its lines alone, given the pair held before it: each SAMPLE the fields of the pair
held there, each ENCODE `{crc, serial[47:24]}` and `{serial[23:0], family}` (R79), each ENV line its outcome. -/
def expectedObservations : List ScriptLine → RawSearchResult → List Observation
  | [], _ => []
  | .present high low :: lines, _ => expectedObservations lines ⟨high, low⟩
  | .sample :: lines, pair => .sampled (fieldsOf pair) :: expectedObservations lines pair
  | .encode family serial crc :: lines, pair =>
    .encoded ⟨crc ++ serial.extractLsb' 24 24, serial.extractLsb' 0 24 ++ family⟩ :: expectedObservations lines pair
  | .env operation outcome :: lines, pair => .answered operation outcome :: expectedObservations lines pair
  | .comment :: lines, pair => expectedObservations lines pair

/-- The line does nothing to the block and reads nothing from it: no PRESENT and no SAMPLE. -/
def ScriptLine.LeavesTheBlock (line : ScriptLine) : Prop :=
  line ≠ .sample ∧ ∀ high low : Word32, line ≠ .present high low

/-- The operations of a list one after another, stopping at the first that does not complete. -/
def runAll : List Instr → State → Host.Outcome State Fault Refusal
  | [], s => .next s
  | i :: is, s =>
    match exec i s with
    | .next t => runAll is t
    | .fault r => .fault r
    | .refused r => .refused r

end Sys2Proof.Machine
end

