-- ==== Sys2Proof/Certificates/Slice0/Obligations.lean ====
section
/-! DEFINITION. The statements for the provers: what the spec's numbered rules say the block, its reference functions and
its environment do. Slices are written `v.extractLsb' lo width`, which is the spec's `v[lo+width-1 : lo]` (R9), and `++` is
the spec's `{a, b}`. -/

open Sys2Proof Sys2Proof.Machine

/-! ## The operations, one by one (spec/40_extract.md)

Each completes on every operand and from every state; `t = { s with … := t.… }` is its frame: every field not named is as
it was. Outputs and nets are no fields but functions of the input pair (R10), so each operation says what its own output or
net carries once its operands are presented. That the input ports carry the operands afterwards, and
that a port bit an operation does not read stays as it was, is the model's convention (log entry 2), stated in
OperationsPresentTheirOperands. -/

/-- R58: COMBINE drives `combined = {high, low}`, which is the zero-extended OR, and, the two terms having no bit in
common, their sum. No reference result changes. -/
def Obligations.CombineConcatenatesTheWords : Prop :=
  ∀ (high low : Word32) (s : State), ∃ t : State,
    exec (.combine high low) s = .next t ∧
    t = { s with high := t.high, low := t.low } ∧
    t.combined = high ++ low ∧
    t.combined = (high.setWidth 64 <<< 32) ||| low.setWidth 64 ∧
    t.combined = (high.setWidth 64 <<< 32) + low.setWidth 64 ∧
    (high.setWidth 64 <<< 32) &&& low.setWidth 64 = 0#64

/-- R59: EXT.FAMILY drives `family = low[7:0] = combined[7:0]`, the masked and truncated word; `high` is not read.
That the frame leaves the port `high` as it was is the model's choice (log entry 2). -/
def Obligations.ExtFamilyTakesTheLowByteOfLow : Prop :=
  ∀ (low : Word32) (s : State), ∃ t : State,
    exec (.extFamily low) s = .next t ∧
    t = { s with low := t.low } ∧
    t.family = low.extractLsb' 0 8 ∧
    t.family = (low &&& 0x000000FF#32).setWidth 8 ∧
    ∀ high : Word32, t.family = (high ++ low : Word64).extractLsb' 0 8

/-- R60: EXT.CRC drives `crc = high[31:24] = combined[63:56]` for every word, whatever the other bits are: no check, no
indication; `low` is not read. That the frame leaves the port `low` as it was is the model's choice (log entry 2). -/
def Obligations.ExtCrcTakesTheHighByteOfHighUnchecked : Prop :=
  ∀ (high : Word32) (s : State), ∃ t : State,
    exec (.extCrc high) s = .next t ∧
    t = { s with high := t.high } ∧
    t.crc = high.extractLsb' 24 8 ∧
    t.crc = ((high >>> 24) &&& 0x000000FF#32).setWidth 8 ∧
    ∀ low : Word32, t.crc = (high ++ low : Word64).extractLsb' 56 8

/-- R61: EXT.SERIAL.HI drives `serial_upper`: bits 47:24 are `high[23:0]`, bits 23:0 are 0, no bit of `high[23:8]` being
lost and none of `high[31:24]` getting in; the largest value is 0xFFFFFF000000. `low` is not read. That
the frame leaves the port `low` as it was is the model's choice (log entry 2). -/
def Obligations.ExtSerialHiPlacesTheUpperPiece : Prop :=
  ∀ (high : Word32) (s : State), ∃ t : State,
    exec (.extSerialHi high) s = .next t ∧
    t = { s with high := t.high } ∧
    t.serialUpper = high.extractLsb' 0 24 ++ 0#24 ∧
    t.serialUpper = (high &&& 0x00FFFFFF#32).setWidth 48 <<< 24 ∧
    t.serialUpper.toNat = (high.toNat % 2 ^ 24) * 2 ^ 24 ∧
    t.serialUpper.toNat ≤ 0xFFFFFF000000

/-- R62: EXT.SERIAL.LO drives `serial_lower`: bits 23:0 are `low[31:8]`, bits 47:24 are 0, whatever `low[31]` is; as a
number it is `low` divided by 256. `high` is not read. That the frame leaves the port `high` as it was is the model's choice
(log entry 2). -/
def Obligations.ExtSerialLoPlacesTheLowerPiece : Prop :=
  ∀ (low : Word32) (s : State), ∃ t : State,
    exec (.extSerialLo low) s = .next t ∧
    t = { s with low := t.low } ∧
    t.serialLower = 0#24 ++ low.extractLsb' 8 24 ∧
    t.serialLower = ((low &&& 0xFFFFFF00#32) >>> 8).setWidth 48 ∧
    t.serialLower.toNat = low.toNat / 2 ^ 8

/-- R63: EXT.SERIAL drives `serial = serial_upper | serial_lower`, the two nets carrying the operand pieces; the OR is the
concatenation of the pieces and the sum of the nets; it is 0 exactly when both pieces are 0, and all ones exactly when both
are. On the pieces of a pair it is `{high[23:0], low[31:8]}`, which is `combined[55:8]`. -/
def Obligations.ExtSerialJoinsTheNets : Prop :=
  (∀ (upper lower : Piece) (s : State), ∃ t : State,
    exec (.extSerial upper lower) s = .next t ∧
    t = { s with high := t.high, low := t.low } ∧
    t.serialUpper = upper ++ 0#24 ∧ t.serialLower = 0#24 ++ lower ∧
    t.serial = t.serialUpper ||| t.serialLower ∧
    t.serial = t.serialUpper + t.serialLower ∧
    t.serial = upper ++ lower ∧
    (t.serial = 0#48 ↔ upper = 0#24 ∧ lower = 0#24) ∧
    (t.serial = 0xFFFFFFFFFFFF#48 ↔ upper = 0xFFFFFF#24 ∧ lower = 0xFFFFFF#24)) ∧
  ∀ (high low : Word32) (s : State), ∃ t : State,
    exec (.extSerial (high.extractLsb' 0 24) (low.extractLsb' 8 24)) s = .next t ∧
    t.serial = high.extractLsb' 0 24 ++ low.extractLsb' 8 24 ∧
    t.serial = (high ++ low : Word64).extractLsb' 8 48

/-- R64: DECODE of every pair completes with `family = low[7:0]`, `serial = {high[23:0], low[31:8]}` and
`crc = high[31:24]`, which are the values of the rule's pseudocode, line by line; the test bench's results are
untouched. -/
def Obligations.DecodeExtractsTheThreeFields : Prop :=
  ∀ (high low : Word32) (s : State), ∃ t : State,
    exec (.decode high low) s = .next t ∧
    s.SameReference t ∧
    t.family = low.extractLsb' 0 8 ∧
    t.serial = high.extractLsb' 0 24 ++ low.extractLsb' 8 24 ∧
    t.crc = high.extractLsb' 24 8 ∧
    t.family = (low &&& 0x000000FF#32).setWidth 8 ∧
    t.crc = ((high >>> 24) &&& 0x000000FF#32).setWidth 8 ∧
    t.serial = ((high &&& 0x00FFFFFF#32).setWidth 48 <<< 24) ||| ((low &&& 0xFFFFFF00#32) >>> 8).setWidth 48

/-- R65, R56: DECODE64 delivers `combined[7:0]`, `combined[55:8]` and `combined[63:56]`, which are the rule's shifts and
truncations, and is DECODE of the two halves: the same state, not a second piece of hardware. -/
def Obligations.Decode64ReadsBitPositions : Prop :=
  ∀ (combined : Word64) (s : State), ∃ t : State,
    exec (.decode64 combined) s = .next t ∧
    t = { s with high := t.high, low := t.low } ∧
    t.family = combined.extractLsb' 0 8 ∧
    t.serial = combined.extractLsb' 8 48 ∧
    t.crc = combined.extractLsb' 56 8 ∧
    t.family = (combined &&& 0xFF#64).setWidth 8 ∧
    t.serial = (combined >>> 8).setWidth 48 ∧
    t.crc = (combined >>> 56).setWidth 8 ∧
    t.sample = decodeCombined combined ∧
    exec (.decode (combined.extractLsb' 32 32) (combined.extractLsb' 0 32)) s = .next t

/-- The model's own convention (log entry 2): an operation of the block presents its operands on the input ports it reads
(EXT.SERIAL on the port bits that make the two nets carry them, DECODE64 as the two halves), and every other port bit stays
as it was. -/
def Obligations.OperationsPresentTheirOperands : Prop :=
  ∀ (high low : Word32) (upper lower : Piece) (s : State), ∃ c f r u l n d e : State,
    exec (.combine high low) s = .next c ∧ c.high = high ∧ c.low = low ∧
    exec (.extFamily low) s = .next f ∧ f.high = s.high ∧ f.low = low ∧
    exec (.extCrc high) s = .next r ∧ r.high = high ∧ r.low = s.low ∧
    exec (.extSerialHi high) s = .next u ∧ u.high = high ∧ u.low = s.low ∧
    exec (.extSerialLo low) s = .next l ∧ l.high = s.high ∧ l.low = low ∧
    exec (.extSerial upper lower) s = .next n ∧ n.high = s.high.extractLsb' 24 8 ++ upper ∧
      n.low = lower ++ s.low.extractLsb' 0 8 ∧ n.family = s.family ∧ n.crc = s.crc ∧
    exec (.decode high low) s = .next d ∧ d.high = high ∧ d.low = low ∧ d.Settled ∧
    exec (.decode64 (high ++ low)) s = .next e ∧ e.high = high ∧ e.low = low

/-! ## Laws of the extraction (spec/40_extract.md section 3) -/

/-- R66: for every pair, DECODE of it and DECODE64 of `{high, low}` give the same three fields. -/
def Obligations.DecodeAgreesWithDecode64 : Prop :=
  ∀ (high low : Word32) (s : State), ∃ t u : State,
    exec (.decode high low) s = .next t ∧ exec (.decode64 (high ++ low)) s = .next u ∧ t.sample = u.sample ∧
    t.sample = decodeCombined (high ++ low)

/-- R67: for every pair, the fields DECODE gives, shifted to their places and joined, are the combined word again. -/
def Obligations.FieldsRebuildTheCombinedWord : Prop :=
  ∀ (high low : Word32) (s : State), ∃ t : State,
    exec (.decode high low) s = .next t ∧
    (high ++ low : Word64) =
      (t.crc.setWidth 64 <<< 56) ||| (t.serial.setWidth 64 <<< 8) ||| t.family.setWidth 64

/-- R68: ranges. The 64-bit view of `serial` has bits 63:48 equal to 0; the two nets have the bounds of the rule's proof
and no bit in common. -/
def Obligations.SerialStaysInFortyEightBits : Prop :=
  ∀ (high low : Word32) (s : State), ∃ t : State,
    exec (.decode high low) s = .next t ∧
    t.family.toNat ≤ 255 ∧ t.crc.toNat ≤ 255 ∧ t.serial.toNat ≤ 2 ^ 48 - 1 ∧
    (t.serial.setWidth 64).extractLsb' 48 16 = 0#16 ∧
    t.serialUpper.toNat ≤ 2 ^ 48 - 2 ^ 24 ∧ t.serialLower.toNat ≤ 2 ^ 24 - 1 ∧
    t.serialUpper &&& t.serialLower = 0#48

/-- R69: DECODE is defined for every pair, gives one result per pair whatever the state before, gives the same state when
evaluated again on the same pair, and changes nothing but ports and nets. -/
def Obligations.DecodeIsAPureFunctionOfThePair : Prop :=
  ∀ high low : Word32, ∃ r : RomCode, ∀ s : State, ∃ t : State,
    exec (.decode high low) s = .next t ∧ t.sample = r ∧ exec (.decode high low) t = .next t ∧ s.SameReference t

/-- R70: DECODE is a bijection between the input pairs and the triples, and every triple is the decode of the pair
ENCODE gives for it. -/
def Obligations.DecodeIsABijection : Prop :=
  ∃ f : RawSearchResult → RomCode,
    (∀ (high low : Word32) (s : State), ∃ t : State, exec (.decode high low) s = .next t ∧ t.sample = f ⟨high, low⟩) ∧
    Function.Bijective f ∧
    ∀ (family : Byte) (serial : Word48) (crc : Byte) (s : State), ∃ t : State,
      exec (.encode family (serial.setWidth 64) crc) s = .next t ∧ f t.refWords = ⟨family, serial, crc⟩

/-- R71: the wiring table, bit by bit; and changing one input bit changes exactly one output bit. -/
def Obligations.EveryOutputBitIsOneInputBit : Prop :=
  (∀ (high low : Word32) (s : State), ∃ t : State, exec (.decode high low) s = .next t ∧
    (∀ i < 8, t.family.getLsbD i = low.getLsbD i) ∧
    (∀ i < 24, t.serial.getLsbD i = low.getLsbD (i + 8)) ∧
    (∀ i, 24 ≤ i → i < 48 → t.serial.getLsbD i = high.getLsbD (i - 24)) ∧
    (∀ i < 8, t.crc.getLsbD i = high.getLsbD (i + 24))) ∧
  ∀ (high low high' low' : Word32) (k : Nat) (s : State), k < 64 →
    (high' ++ low' : Word64) = (high ++ low) ^^^ (1#64 <<< k) →
    ∃ t u : State, exec (.decode high low) s = .next t ∧ exec (.decode high' low') s = .next u ∧
      (u.crc ++ u.serial ++ u.family : Word64) = (t.crc ++ t.serial ++ t.family) ^^^ (1#64 <<< k)

/-- R57: the six operations of the block, evaluated one after another in ANY order on one pair, leave the outputs and nets
that DECODE of the pair leaves; in the model the whole state, since an operation presents its operands (the model's
convention, log entry 2). (EXT.SERIAL is given the pieces the nets carry for the pair.) -/
def Obligations.OrderOfTheOperationsIsIrrelevant : Prop :=
  ∀ (high low : Word32) (order : List Instr) (s : State),
    order.Perm [.combine high low, .extFamily low, .extCrc high, .extSerialHi high, .extSerialLo low,
      .extSerial (high.extractLsb' 0 24) (low.extractLsb' 8 24)] →
    runAll order s = exec (.decode high low) s

/-- R106: a torn pair, `high` of A with `low` of B, decodes without complaint to `crc` and `serial[47:24]` of A and
`family` and `serial[23:0]` of B. -/
def Obligations.TornPairDecodesToTheMixture : Prop :=
  ∀ (a b : RawSearchResult) (s : State), ∃ ta tb torn : State,
    exec (.decode a.high a.low) s = .next ta ∧ exec (.decode b.high b.low) s = .next tb ∧
    exec (.decode a.high b.low) s = .next torn ∧
    torn.crc = ta.crc ∧ torn.serial.extractLsb' 24 24 = ta.serial.extractLsb' 24 24 ∧
    torn.family = tb.family ∧ torn.serial.extractLsb' 0 24 = tb.serial.extractLsb' 0 24

/-! ## The reference functions (spec/41_reference_pack_split.md) -/

/-- R77: inside the domain PACK gives `{crc, serial, family}`, which is the OR of the three shifted fields and, their bits
being disjoint, their sum; no port and no net is touched. Outside `serial < 2^48` it is refused. -/
def Obligations.PackConcatenatesTheFields : Prop :=
  ∀ (family : Byte) (serial : Word64) (crc : Byte) (s : State),
    (serial.toNat < 2 ^ 48 → ∃ t : State,
      exec (.pack family serial crc) s = .next t ∧
      t = { s with refCombined := t.refCombined } ∧
      t.refCombined = crc ++ serial.extractLsb' 0 48 ++ family ∧
      t.refCombined = (crc.setWidth 64 <<< 56) ||| (serial <<< 8) ||| family.setWidth 64 ∧
      t.refCombined.toNat = crc.toNat * 2 ^ 56 + serial.toNat * 2 ^ 8 + family.toNat) ∧
    (2 ^ 48 ≤ serial.toNat → exec (.pack family serial crc) s = .refused (.serialOutOfDomain serial))

/-- R82: PACK and ENCODE complete on exactly the serials below 2^48, refuse every other under the operand's own value, and
DECODE never gives a serial outside that domain. Of the three treatments R82 allows the model's choice is the refusal, of a
64-bit operand, carrying its own value (log entry 9). -/
def Obligations.DomainOfPackAndEncode : Prop :=
  (∀ (family : Byte) (serial : Word64) (crc : Byte) (s : State),
    ((∃ t : State, exec (.pack family serial crc) s = .next t) ↔ serial.toNat < 2 ^ 48) ∧
    ((∃ t : State, exec (.encode family serial crc) s = .next t) ↔ serial.toNat < 2 ^ 48) ∧
    (¬ serial.toNat < 2 ^ 48 → exec (.pack family serial crc) s = .refused (.serialOutOfDomain serial) ∧
      exec (.encode family serial crc) s = .refused (.serialOutOfDomain serial))) ∧
  ∀ (high low : Word32) (s : State), ∃ t u v : State, exec (.decode high low) s = .next t ∧
    exec (.pack t.family (t.serial.setWidth 64) t.crc) s = .next u ∧
    exec (.encode t.family (t.serial.setWidth 64) t.crc) s = .next v

/-- R78: SPLIT gives `high = combined[63:32]` and `low = combined[31:0]`, which are the rule's shift and mask, touches no
port and no net, and is the inverse of COMBINE on both sides. -/
def Obligations.SplitCutsTheCombinedWord : Prop :=
  (∀ (combined : Word64) (s : State), ∃ t u : State,
    exec (.split combined) s = .next t ∧
    t = { s with refHigh := t.refHigh, refLow := t.refLow } ∧
    t.refHigh = combined.extractLsb' 32 32 ∧
    t.refLow = combined.extractLsb' 0 32 ∧
    t.refHigh = (combined >>> 32).setWidth 32 ∧
    t.refLow = (combined &&& 0x00000000FFFFFFFF#64).setWidth 32 ∧
    exec (.combine t.refHigh t.refLow) t = .next u ∧ u.combined = combined) ∧
  ∀ (high low : Word32) (s : State), ∃ t u : State,
    exec (.combine high low) s = .next t ∧ exec (.split t.combined) t = .next u ∧ u.refWords = ⟨high, low⟩

/-- R79: inside the domain ENCODE gives `high = {crc, serial[47:24]}` and `low = {serial[23:0], family}`, the SPLIT of the
PACK of the fields; no port and no net is touched. Outside `serial < 2^48` it is refused, as PACK is. -/
def Obligations.EncodeIsSplitAfterPack : Prop :=
  ∀ (family : Byte) (serial : Word64) (crc : Byte) (s : State),
    (serial.toNat < 2 ^ 48 → ∃ t p q : State,
      exec (.encode family serial crc) s = .next t ∧
      t = { s with refHigh := t.refHigh, refLow := t.refLow } ∧
      t.refHigh = crc ++ serial.extractLsb' 24 24 ∧
      t.refLow = serial.extractLsb' 0 24 ++ family ∧
      exec (.pack family serial crc) s = .next p ∧ exec (.split p.refCombined) p = .next q ∧
      q.refWords = t.refWords) ∧
    (2 ^ 48 ≤ serial.toNat → exec (.encode family serial crc) s = .refused (.serialOutOfDomain serial))

/-- R80, the round-trip law: for every triple, DECODE of the pair ENCODE gives reproduces the triple exactly. -/
def Obligations.DecodeOfEncodeIsTheTriple : Prop :=
  ∀ (family : Byte) (serial : Word48) (crc : Byte) (s : State), ∃ t u : State,
    exec (.encode family (serial.setWidth 64) crc) s = .next t ∧
    exec (.decode t.refHigh t.refLow) t = .next u ∧ u.sample = ⟨family, serial, crc⟩

/-- R81, the converse law: for every pair, ENCODE of the fields DECODE gives is the pair. -/
def Obligations.EncodeOfDecodeIsThePair : Prop :=
  ∀ (high low : Word32) (s : State), ∃ t u : State,
    exec (.decode high low) s = .next t ∧
    exec (.encode t.family (t.serial.setWidth 64) t.crc) t = .next u ∧ u.refWords = ⟨high, low⟩

/-- R76: the reference functions are no hardware: whatever one answers with, no port, no output and no net has changed. -/
def Obligations.ReferenceFunctionsTouchNoPort : Prop :=
  ∀ (i : Instr) (s t : State), i.row ∈ [Row.pack, Row.split, Row.encode] →
    exec i s = .next t → s.SameBlock t

/-- R69, R58 to R65: the operations of the block have no side effect on the test bench's results; and an operation evaluated
on what the ports already carry changes nothing at all: its result is carried there already (R10, R57). -/
def Obligations.BlockOperationsTouchNoReferenceResult : Prop :=
  (∀ (i : Instr) (s t : State), i.row ∉ [Row.pack, Row.split, Row.encode] →
    exec i s = .next t → s.SameReference t) ∧
  ∀ s : State,
    exec (.combine s.high s.low) s = .next s ∧ exec (.extFamily s.low) s = .next s ∧
    exec (.extCrc s.high) s = .next s ∧ exec (.extSerialHi s.high) s = .next s ∧ exec (.extSerialLo s.low) s = .next s ∧
    exec (.extSerial (s.high.extractLsb' 0 24) (s.low.extractLsb' 8 24)) s = .next s ∧
    exec (.decode s.high s.low) s = .next s ∧ exec (.decode64 (s.high ++ s.low)) s = .next s

/-! ## The machine -/

/-- R44: the bytes the input ports carry, in wire order, decode to an operation with nothing left over, and whatever they
decode to, a step is `exec` of it: nothing stands around it. -/
def Obligations.StepRunsTheDecodedOperation : Prop :=
  (∀ s : State, ∃ i : Instr, decode (toWire 8 s.fetch.toNat) = .ok (i, []) ∧ i.wellFormed = true) ∧
  ∀ (s : State) (i : Instr) (rest : List Byte),
    decode (toWire 8 s.fetch.toNat) = .ok (i, rest) → step s = exec i s

/-- R83: for every state, so for every input, a step answers a value: it never faults and never refuses. -/
def Obligations.StepAlwaysAnswersAValue : Prop :=
  ∀ s : State, (∃ t : State, step s = .next t) ∧ (∀ r : Fault, step s ≠ .fault r) ∧
    ∀ r : Refusal, step s ≠ .refused r

/-- R41, R64: after a step every output and net is the function of the inputs. That the state after it is the state before
it is the model's choice, log entry 6 (the block keeps nothing, R13), and that the input ports are as they were is log entry
5 (holding them is the environment's duty, R108). -/
def Obligations.StepSettlesTheBlock : Prop :=
  ∀ s t : State, step s = .next t →
    t = s ∧ t.Settled ∧ t.high = s.high ∧ t.low = s.low ∧ s.SameReference t ∧ step t = .next t

/-- R13, R10, R112: at every moment, with no step in between, the outputs are one function of the input pair; two states
whose ports carry the same pair agree in every output and net, whatever else they hold, and so do the states after a step:
there is no hidden state. -/
def Obligations.OutputsDependOnTheInputsAlone : Prop :=
  (∃ f : RawSearchResult → RomCode, ∀ s : State, s.sample = f ⟨s.high, s.low⟩ ∧ ∃ t : State, step s = .next t ∧
    t.sample = f ⟨s.high, s.low⟩) ∧
  ∀ s s' : State, s.high = s'.high → s.low = s'.low → s'.SameBlock s ∧ ∃ t t' : State,
    step s = .next t ∧ step s' = .next t' ∧ t.SameBlock t'

/-- R19: the two serial nets are non-zero only in their own half, in every state, reached by a run or not, and so after
every operation, well formed or not, and after every step. -/
def Obligations.SerialNetsKeepTheirShape : Prop :=
  (∀ s : State, s.NetsShaped ∧ s.serialUpper &&& s.serialLower = 0#48) ∧
  (∀ (i : Instr) (s t : State), exec i s = .next t → t.NetsShaped) ∧
  ∀ s t : State, step s = .next t → t.NetsShaped

/-- R27, R99: right after reset, whatever the free input ports carry, outputs and nets are the functions of the inputs and
the serial nets have their shape. -/
def Obligations.ResetStateIsSettled : Prop := State.reset.Settled ∧ State.reset.NetsShaped

/-- R97, R29, R41: presenting a pair changes the two input ports and nothing else of the state; the block follows at once,
so what is sampled then is the decode of the pair presented, without a step and after any step. -/
def Obligations.SampleAfterPresentIsTheDecode : Prop :=
  ∀ (high low : Word32) (s : State),
    s.present high low = { s with high := high, low := low } ∧
    (s.present high low).sample =
      ⟨low.extractLsb' 0 8, high.extractLsb' 0 24 ++ low.extractLsb' 8 24, high.extractLsb' 24 8⟩ ∧
    (s.present high low).Settled ∧
    ∃ t : State, step (s.present high low) = .next t ∧
      t.sample = ⟨low.extractLsb' 0 8, high.extractLsb' 0 24 ++ low.extractLsb' 8 24, high.extractLsb' 24 8⟩

/-! ## Encodings -/

/-- R45 to R48, R55: for every well-formed operation, reading its bytes as its row gives it back with whatever follows:
no bit of a layout is dropped. -/
def Obligations.RowDecodeOfEncodeIsTheOperation : Prop :=
  ∀ (i : Instr) (rest : List Byte), i.wellFormed = true → decodeRow i.row (encode i ++ rest) = .ok (i, rest)

/-- R53, R70: whatever bytes a row is read from, the operation read is well formed, is of that row, and its encoding is
exactly the bytes consumed: every pattern has one meaning and no bit is used twice. -/
def Obligations.RowEncodeOfDecodeIsTheBytes : Prop :=
  ∀ (row : Row) (bs rest : List Byte) (i : Instr), decodeRow row bs = .ok (i, rest) →
    i.row = row ∧ i.wellFormed = true ∧ encode i ++ rest = bs

/-- R53, R54: the block reads eight bytes whatever they are, and refuses only fewer. -/
def Obligations.EveryPatternOfEightBytesIsLegal : Prop :=
  ∀ bs : List Byte,
    (8 ≤ bs.length → ∃ (high low : Word32) (rest : List Byte), decode bs = .ok (.decode high low, rest)) ∧
    (bs.length < 8 → decode bs = .error (.tooShort .decode))

/-- R31, R48: of eight bytes in wire order the first is the family, the next six the serial from its least significant
byte up, the last the crc. That the block is read from bytes is log entry 8. -/
def Obligations.WireOrderIsFamilySerialCrc : Prop :=
  ∀ (b0 b1 b2 b3 b4 b5 b6 b7 : Byte) (s : State), ∃ (i : Instr) (t : State),
    decode [b0, b1, b2, b3, b4, b5, b6, b7] = .ok (i, []) ∧ exec i s = .next t ∧
    t.family = b0 ∧ t.serial = b6 ++ b5 ++ b4 ++ b3 ++ b2 ++ b1 ∧ t.crc = b7

/-- Words written out from the layouts of R45 to R47 and the table, read as what they stand for. That bytes stand
in wire order is log entry 8, that a row is read by its name log entry 7: the model's choices. -/
def Obligations.SampleWordsDecode : Prop :=
  decode [0x67#8, 0x45#8, 0x23#8, 0x01#8, 0xEF#8, 0xCD#8, 0xAB#8, 0x89#8] =
    .ok (.decode 0x89ABCDEF#32 0x01234567#32, []) ∧
  decodeRow .pack [0x67#8, 0x45#8, 0x23#8, 0x01#8, 0xEF#8, 0xCD#8, 0xAB#8, 0x89#8] =
    .ok (.pack 0x67#8 0xABCDEF012345#64 0x89#8, []) ∧
  decodeRow .extSerialHi [0xEF#8, 0xCD#8, 0xAB#8, 0x00#8] = .ok (.extSerialHi 0x00ABCDEF#32, []) ∧
  decodeRow .extSerial [0x45#8, 0x23#8, 0x01#8, 0xEF#8, 0xCD#8, 0xAB#8] =
    .ok (.extSerial 0xABCDEF#24 0x012345#24, [])

/-! ## The environment (spec/20_memory.md section 4, spec/60_exceptions.md section 3, spec/70_reset_and_hazards.md
section 2) -/

/-- R55, R97, R41: after the lines of any script the ports hold the last pair presented, the block is settled on it, and no
line has touched a reference result; and what the script shows is what the text of its lines gives: every SAMPLE the fields
of the pair held at that line, every ENCODE the words of R79, every ENV line its outcome. -/
def Obligations.ScriptsHoldTheLastPresentedPair : Prop :=
  ∀ (lines : List ScriptLine) (s : State),
    (runScript lines s).1.Settled ∧
    RawSearchResult.mk (runScript lines s).1.high (runScript lines s).1.low = heldPair lines ⟨s.high, s.low⟩ ∧
    s.SameReference (runScript lines s).1 ∧
    (runScript lines s).2 = expectedObservations lines ⟨s.high, s.low⟩

/-- R86, R94, R102: when a setting is the first whose write fails, the attempt reports that setting, no later setting is
written, no "go" command is issued, no result register is read, nothing is presented or sampled, and the close is still
attempted. The register each setting is written to is the model's choice (log entry 11); the calls are compared through
it. -/
def Obligations.FailedSettingPreventsTheSearch : Prop :=
  ∀ (cfg : BusConfig) (a : BusAnswers) (done : List Setting) (x : Setting) (later : List Setting),
    settings = done ++ x :: later → (∀ y ∈ done, a.settingOk y = true) → a.settingOk x = false → a.openOk = true →
    (readAttempt cfg a).result = .error (.busError (.setting x)) ∧
    (readAttempt cfg a).calls =
      .openDevice :: (done.map (Setting.call cfg) ++ [x.call cfg]) ++ [.closeDevice] ∧
    (∀ v : Word32, Call.writeRegister .goCommand v ∉ (readAttempt cfg a).calls) ∧
    (∀ (r : RegisterName) (d : Word32), Call.readRegister r d ∉ (readAttempt cfg a).calls) ∧
    ∀ line ∈ (readAttempt cfg a).script, line.LeavesTheBlock

/-- R105, R101: after a successful open the handle is closed exactly once, as the last call and the last line, after any
presentation and sampling, on every path; whether the close fails is reported and changes neither the result nor the
calls. That a failed close ends in an outcome and is reported in a field of its own is the model's choice (log entry 14). What
a failed open does is FailedOpenEndsTheAttempt. -/
def Obligations.HandleIsClosedExactlyOnce : Prop :=
  ∀ (cfg : BusConfig) (a : BusAnswers), a.openOk = true →
    (readAttempt cfg a).calls.count .closeDevice = 1 ∧
    (readAttempt cfg a).calls.getLast? = some .closeDevice ∧
    (readAttempt cfg a).script.getLast? = some (closeLine a.closeOk) ∧
    (readAttempt cfg a).closeFailed = !a.closeOk ∧
    ∀ b : Bool, (readAttempt cfg { a with closeOk := b }).result = (readAttempt cfg a).result ∧
      (readAttempt cfg { a with closeOk := b }).calls = (readAttempt cfg a).calls

/-- R101, R103: when every call succeeds the lines of the attempt are 1 open, 2 the four settings in order, 3 go and the two
result reads, 4 present the pair and sample, 5 close; the pair is returned unaltered; and what was sampled, before the
close, is its decode, which the block delivers still after the attempt. The order of the two reads, the registers of the
settings and the values of go and default are the model's choice (log entries 10, 11 and 13), as is that a failed close has
an outcome of its own (log entry 14). -/
def Obligations.SuccessfulAttemptReachesTheBlock : Prop :=
  ∀ (cfg : BusConfig) (high low : Word32) (closeOk : Bool) (leftover : RawSearchResult) (s : State), ∃ t : Attempt,
    readAttempt cfg ⟨true, true, true, true, true, true, some high, some low, closeOk⟩ = t ∧
    t.script = [.env (.call .openDevice) .ok,
      .env (.call (.writeRegister .dataLinePin cfg.dataLine)) .ok,
      .env (.call (.writeRegister .pullupDisable cfg.pullupDisable)) .ok,
      .env (.call (.writeRegister .rxByteCount 8#32)) .ok,
      .env (.call (.writeRegister .functionSelect cfg.searchOpcode)) .ok,
      .env (.call (.writeRegister .goCommand Config.goValue)) .ok,
      .env (.call (.readRegister .searchResultHigh Config.readDefault)) (.okWord high),
      .env (.call (.readRegister .searchResultLow Config.readDefault)) (.okWord low),
      .present high low, .sample,
      .env (.call .closeDevice) (if closeOk then .ok else .closeFailed)] ∧
    t.result = .ok ⟨high, low⟩ ∧
    Observation.sampled ⟨low.extractLsb' 0 8, high.extractLsb' 0 24 ++ low.extractLsb' 8 24, high.extractLsb' 24 8⟩ ∈
      (runScript t.script s).2 ∧
    (s.afterAttempt t leftover).high = high ∧ (s.afterAttempt t leftover).low = low ∧
    ∃ u : State, step (s.afterAttempt t leftover) = .next u ∧
      u.sample = ⟨low.extractLsb' 0 8, high.extractLsb' 0 24 ++ low.extractLsb' 8 24, high.extractLsb' 24 8⟩

/-- R94, R103: an attempt gives a pair exactly when the open, every setting, the go command and both reads succeed, and it
is the pair read, unaltered; after any failure nothing was presented or sampled, and the block still decodes whatever the
ports carry (any pair, log entry 15). -/
def Obligations.NoPairAfterAFailure : Prop :=
  ∀ (cfg : BusConfig) (a : BusAnswers),
    (∀ pair : RawSearchResult, (readAttempt cfg a).result = .ok pair ↔
      a.openOk = true ∧ (∀ x ∈ settings, a.settingOk x = true) ∧ a.goOk = true ∧
      a.highRead = some pair.high ∧ a.lowRead = some pair.low) ∧
    ∀ (e : EnvError) (leftover : RawSearchResult) (s : State), (readAttempt cfg a).result = .error e →
      (∀ line ∈ (readAttempt cfg a).script, line.LeavesTheBlock) ∧
      ∃ t : State, step (s.afterAttempt (readAttempt cfg a) leftover) = .next t ∧
        t.high = leftover.high ∧ t.low = leftover.low ∧ t.sample = fieldsOf leftover

/-- R93: no call is made twice in one attempt: nothing is retried. -/
def Obligations.NoCallIsRetried : Prop :=
  ∀ (cfg : BusConfig) (a : BusAnswers), (readAttempt cfg a).calls.Nodup

/-- R37 to R39, R92: every outcome a read attempt writes down is one its operation has: a write ends in `ok` or WriteError, a
read in a value or ReadError, an open in `ok` or OpenError. What a failed close says and what a failed search tells are the
model's choice (log entries 14 and 17). -/
def Obligations.AttemptLinesAreAdmitted : Prop :=
  ∀ (cfg : BusConfig) (a : BusAnswers) (operation : EnvOperation) (outcome : EnvOutcome),
    .env operation outcome ∈ (readAttempt cfg a).script → operation.admits outcome = true

/-- R38, R39, R92, R102: the two operations of BusSearchSession end only in outcomes they have: `configure` in `ok` or a
BusError naming the setting that failed, `execute_search` in the pair read, high and low, or a BusError. What the BusError
of a search tells is the model's choice (log entry 17). -/
def Obligations.SessionOperationsAreAdmitted : Prop :=
  ∀ (cfg : BusConfig) (a : BusAnswers),
    ((configure cfg a).2 = .ok () ↔ ∀ x ∈ settings, a.settingOk x = true) ∧
    (∀ e : EnvError, (configure cfg a).2 = .error e →
      (EnvOperation.configure cfg).admits (.fail e) = true ∧ ∃ x : Setting, e = .busError (.setting x) ∧
        a.settingOk x = false) ∧
    (∀ pair : RawSearchResult, (executeSearch a).2 = .ok pair ↔
      a.goOk = true ∧ a.highRead = some pair.high ∧ a.lowRead = some pair.low) ∧
    ∀ e : EnvError, (executeSearch a).2 = .error e → EnvOperation.executeSearch.admits (.fail e) = true

/-- R92, R93, R94: when the open fails the attempt ends in OpenError, no other call is made, no pair is presented and nothing
is sampled. That no close is attempted, there being no handle, is the model's inference (log entry 12). -/
def Obligations.FailedOpenEndsTheAttempt : Prop :=
  ∀ (cfg : BusConfig) (a : BusAnswers), a.openOk = false →
    (readAttempt cfg a).script = [.env (.call .openDevice) (.fail .openError)] ∧
    (readAttempt cfg a).calls = [.openDevice] ∧
    (readAttempt cfg a).result = .error .openError ∧
    (readAttempt cfg a).closeFailed = false
end

