-- ==== Sys2Proof/Laws/Bits.lean ====
section
/-! SUPPORT. Which bit is which in the concatenations this block uses. A concatenation typed at its written width (48, 64)
is not syntactically of type `BitVec (n + m)`, so the library's lemmas do not rewrite it; these do. -/

namespace Sys2Proof

/-- `{a, b}` of two serial pieces. -/
theorem getLsbD_append_24_24 (a b : BitVec 24) (i : Nat) :
    (a ++ b : Word48).getLsbD i = if i < 24 then b.getLsbD i else a.getLsbD (i - 24) := BitVec.getLsbD_append

/-- `{high, low}`. -/
theorem getLsbD_append_32_32 (a b : Word32) (i : Nat) :
    (a ++ b : Word64).getLsbD i = if i < 32 then b.getLsbD i else a.getLsbD (i - 32) := BitVec.getLsbD_append

/-- `{crc, upper piece}`. -/
theorem getLsbD_append_8_24 (a : Byte) (b : BitVec 24) (i : Nat) :
    (a ++ b : Word32).getLsbD i = if i < 24 then b.getLsbD i else a.getLsbD (i - 24) := BitVec.getLsbD_append

/-- `{lower piece, family}`. -/
theorem getLsbD_append_24_8 (a : BitVec 24) (b : Byte) (i : Nat) :
    (a ++ b : Word32).getLsbD i = if i < 8 then b.getLsbD i else a.getLsbD (i - 8) := BitVec.getLsbD_append

/-- `{crc, serial, family}`. -/
theorem getLsbD_append_8_48_8 (a : Byte) (b : Word48) (c : Byte) (i : Nat) :
    (a ++ b ++ c : Word64).getLsbD i =
      if i < 8 then c.getLsbD i else if i - 8 < 48 then b.getLsbD (i - 8) else a.getLsbD (i - 8 - 48) := by
  rw [show (a ++ b ++ c : Word64).getLsbD i = if i < 8 then c.getLsbD i else (a ++ b).getLsbD (i - 8) from
    BitVec.getLsbD_append, BitVec.getLsbD_append]

end Sys2Proof
end

