-- ==== Sys2Proof/Laws/Environment.lean ====
section
/-! SUPPORT. What the environment's operations can do, said once: the call of each line, a sequence of setting writes, a
configuration, a search (spec/60_exceptions.md R86, spec/70_reset_and_hazards.md R102, R103). -/

namespace Sys2Proof.Machine

@[simp] theorem openLine_call? (ok : Bool) : (openLine ok).call? = some .openDevice := rfl
@[simp] theorem writeLine_call? (c : Call) (ok : Bool) : (writeLine c ok).call? = some c := rfl
@[simp] theorem readLine_call? (name : RegisterName) (value : Option Word32) :
    (readLine name value).call? = some (readCall name) := by cases value <;> rfl
@[simp] theorem closeLine_call? (ok : Bool) : (closeLine ok).call? = some .closeDevice := rfl

/-- Presenting and sampling make no call. -/
@[simp] theorem useLines_calls (r : Except EnvError RawSearchResult) :
    (useLines r).filterMap ScriptLine.call? = [] := by cases r <;> rfl

/-- Write lines make the calls they are of. -/
@[simp] theorem writeLines_calls (cfg : BusConfig) (ok : Bool) (xs : List Setting) :
    (xs.map fun x => writeLine (x.call cfg) ok).filterMap ScriptLine.call? = xs.map (Setting.call cfg) := by
  induction xs with
  | nil => rfl
  | cons x xs ih => rw [List.map_cons, List.filterMap_cons, writeLine_call?, ih, List.map_cons]

/-- Where every write succeeds, every setting is written once, in order. -/
theorem writeSettings_all_ok (cfg : BusConfig) (a : BusAnswers) (xs : List Setting)
    (h : ∀ x ∈ xs, a.settingOk x = true) :
    writeSettings cfg a xs = (xs.map fun x => writeLine (x.call cfg) true, none) := by
  induction xs with
  | nil => rfl
  | cons x xs ih => simp [writeSettings, h x (by simp), ih fun y hy => h y (by simp [hy])]

/-- The first write that fails is the last one made, and names its setting. -/
theorem writeSettings_first_failure (cfg : BusConfig) (a : BusAnswers) (done later : List Setting) (x : Setting)
    (hd : ∀ y ∈ done, a.settingOk y = true) (hx : a.settingOk x = false) :
    writeSettings cfg a (done ++ x :: later) =
      ((done.map fun y => writeLine (y.call cfg) true) ++ [writeLine (x.call cfg) false], some x) := by
  induction done with
  | nil => simp [writeSettings, hx]
  | cons y done ih => simp [writeSettings, hd y (by simp), ih fun z hz => hd z (by simp [hz])]

/-- A list of settings is written whole, or has a first one whose write fails. -/
theorem settings_all_ok_or_first_failure (a : BusAnswers) (xs : List Setting) :
    (∀ x ∈ xs, a.settingOk x = true) ∨
    ∃ done x later, xs = done ++ x :: later ∧ (∀ y ∈ done, a.settingOk y = true) ∧ a.settingOk x = false := by
  induction xs with
  | nil => exact .inl (by simp)
  | cons x xs ih =>
    cases hx : a.settingOk x with
    | false => exact .inr ⟨[], x, xs, rfl, by simp, hx⟩
    | true =>
      rcases ih with h | ⟨done, y, later, rfl, hd, hy⟩
      · exact .inl (by simpa [hx] using h)
      · exact .inr ⟨x :: done, y, later, rfl, by simpa [hx] using hd, hy⟩

/-- What `configure` can do: write every setting, or stop at the first whose write fails, naming it. -/
theorem configure_cases (cfg : BusConfig) (a : BusAnswers) :
    ((∀ x ∈ settings, a.settingOk x = true) ∧
      configure cfg a = (settings.map fun x => writeLine (x.call cfg) true, .ok ())) ∨
    ∃ done x later, settings = done ++ x :: later ∧ (∀ y ∈ done, a.settingOk y = true) ∧ a.settingOk x = false ∧
      configure cfg a = ((done.map fun y => writeLine (y.call cfg) true) ++ [writeLine (x.call cfg) false],
        .error (.busError (.setting x))) := by
  rcases settings_all_ok_or_first_failure a settings with h | ⟨done, x, later, hs, hd, hx⟩
  · exact .inl ⟨h, by rw [configure, writeSettings_all_ok cfg a settings h]⟩
  · exact .inr ⟨done, x, later, hs, hd, hx, by rw [configure, hs, writeSettings_first_failure cfg a done later x hd hx]⟩

/-- What `executeSearch` can do: fail at the go, at the high read, at the low read, or give the pair read. -/
theorem executeSearch_cases (a : BusAnswers) :
    (a.goOk = false ∧ executeSearch a = ([writeLine goCall false], .error (.busError .go))) ∨
    (a.goOk = true ∧ a.highRead = none ∧ executeSearch a =
      ([writeLine goCall true, readLine .searchResultHigh none], .error (.busError (.result .searchResultHigh)))) ∨
    (∃ high, a.goOk = true ∧ a.highRead = some high ∧ a.lowRead = none ∧ executeSearch a =
      ([writeLine goCall true, readLine .searchResultHigh (some high), readLine .searchResultLow none],
        .error (.busError (.result .searchResultLow)))) ∨
    ∃ high low, a.goOk = true ∧ a.highRead = some high ∧ a.lowRead = some low ∧ executeSearch a =
      ([writeLine goCall true, readLine .searchResultHigh (some high), readLine .searchResultLow (some low)],
        .ok ⟨high, low⟩) := by
  cases hg : a.goOk <;> cases hh : a.highRead <;> cases hl : a.lowRead <;> simp [executeSearch, hg, hh, hl]

end Sys2Proof.Machine
end

