-- ==== Sys2Proof/Laws/Operands.lean ====
section
/-! SUPPORT. What each pure operation of Machine/Operands.lean gives, by bit positions: the comment lines of the rules'
pseudocode (spec/40_extract.md R58 to R65, spec/41_reference_pack_split.md R77 to R79). -/

namespace Sys2Proof.Machine

/-- R58: `= {high, low}`. -/
theorem combineWords_eq (high low : Word32) : combineWords high low = high ++ low := by
  refine BitVec.eq_of_getLsbD_eq fun i hi => ?_
  simp only [combineWords, BitVec.getLsbD_or, BitVec.getLsbD_shiftLeft, BitVec.getLsbD_setWidth, getLsbD_append_32_32]
  by_cases h : i < 32
  · simp [h, hi]
  · simp [h, hi, BitVec.getLsbD_of_ge low i (by omega), show i - 32 < 64 by omega]

/-- R59: `= low[7:0]`. -/
theorem familyOf_eq (low : Word32) : familyOf low = low.extractLsb' 0 8 := by
  refine BitVec.eq_of_getLsbD_eq fun i hi => ?_
  simp only [familyOf, BitVec.getLsbD_setWidth, BitVec.getLsbD_and, BitVec.getLsbD_extractLsb']
  interval_cases i <;> simp

/-- R60: `= high[31:24]`. -/
theorem crcOf_eq (high : Word32) : crcOf high = high.extractLsb' 24 8 := by
  refine BitVec.eq_of_getLsbD_eq fun i hi => ?_
  simp only [crcOf, BitVec.getLsbD_setWidth, BitVec.getLsbD_and, BitVec.getLsbD_extractLsb', BitVec.getLsbD_ushiftRight]
  interval_cases i <;> simp

/-- R61: `bits 47:24 = high[23:0]; bits 23:0 = 0`. -/
theorem serialUpperOf_eq (high : Word32) : serialUpperOf high = high.extractLsb' 0 24 ++ 0#24 := by
  refine BitVec.eq_of_getLsbD_eq fun i hi => ?_
  simp only [serialUpperOf, BitVec.getLsbD_shiftLeft, BitVec.getLsbD_setWidth, BitVec.getLsbD_and,
    getLsbD_append_24_24, BitVec.getLsbD_extractLsb']
  interval_cases i <;> simp

/-- R62: `bits 23:0 = low[31:8]; bits 47:24 = 0`. -/
theorem serialLowerOf_eq (low : Word32) : serialLowerOf low = 0#24 ++ low.extractLsb' 8 24 := by
  refine BitVec.eq_of_getLsbD_eq fun i hi => ?_
  simp only [serialLowerOf, BitVec.getLsbD_setWidth, BitVec.getLsbD_and, BitVec.getLsbD_ushiftRight,
    getLsbD_append_24_24, BitVec.getLsbD_extractLsb']
  interval_cases i <;> simp

/-- R63: two pieces, each in its own half, are joined side by side. -/
theorem joinSerial_append (a b : BitVec 24) : joinSerial (a ++ 0#24) (0#24 ++ b) = a ++ b := by
  refine BitVec.eq_of_getLsbD_eq fun i _ => ?_
  simp only [joinSerial, BitVec.getLsbD_or, getLsbD_append_24_24]
  by_cases h : i < 24 <;> simp [h]

/-- R64: `family = low[7:0]`, `serial = {high[23:0], low[31:8]}`, `crc = high[31:24]`. -/
theorem decodeWords_eq (high low : Word32) : decodeWords high low =
    ⟨low.extractLsb' 0 8, high.extractLsb' 0 24 ++ low.extractLsb' 8 24, high.extractLsb' 24 8⟩ := by
  simp only [decodeWords, familyOf_eq, serialUpperOf_eq, serialLowerOf_eq, joinSerial_append, crcOf_eq]

/-- R65: `combined[7:0]`, `combined[55:8]`, `combined[63:56]`. -/
theorem decodeCombined_eq (combined : Word64) : decodeCombined combined =
    ⟨combined.extractLsb' 0 8, combined.extractLsb' 8 48, combined.extractLsb' 56 8⟩ := by
  simp only [decodeCombined, RomCode.mk.injEq]
  refine ⟨?_, ?_, ?_⟩ <;> refine BitVec.eq_of_getLsbD_eq fun i hi => ?_
  · simp only [BitVec.getLsbD_setWidth, BitVec.getLsbD_and, BitVec.getLsbD_extractLsb']
    interval_cases i <;> simp
  · simp
  · simp

/-- R77: `= {crc, serial, family}`. -/
theorem packFields_eq (family : Byte) (serial : Word48) (crc : Byte) :
    packFields family serial crc = crc ++ serial ++ family := by
  refine BitVec.eq_of_getLsbD_eq fun i hi => ?_
  simp only [packFields, BitVec.getLsbD_or, BitVec.getLsbD_shiftLeft, BitVec.getLsbD_setWidth, getLsbD_append_8_48_8]
  by_cases h : i < 8
  · simp [h, hi, show i < 56 by omega]
  · have hf : family.getLsbD i = false := BitVec.getLsbD_of_ge _ _ (by omega)
    by_cases h' : i < 56
    · simp [h, h', hi, hf, show i - 8 < 48 by omega, show i - 8 < 64 by omega]
    · have hs : serial.getLsbD (i - 8) = false := BitVec.getLsbD_of_ge _ _ (by omega)
      simp [h, h', hi, hf, hs, show ¬ i - 8 < 48 by omega, show i - 56 < 64 by omega, Nat.sub_sub]

/-- R78: `combined[63:32]` and `combined[31:0]`. -/
theorem splitWord_eq (combined : Word64) :
    splitWord combined = ⟨combined.extractLsb' 32 32, combined.extractLsb' 0 32⟩ := by
  simp only [splitWord, RawSearchResult.mk.injEq]
  refine ⟨?_, ?_⟩ <;> refine BitVec.eq_of_getLsbD_eq fun i hi => ?_
  · simp
  · simp only [BitVec.getLsbD_setWidth, BitVec.getLsbD_and, BitVec.getLsbD_extractLsb']
    interval_cases i <;> simp

/-- R79: `high = {crc, serial[47:24]}`, `low = {serial[23:0], family}`. -/
theorem encodeFields_eq (family : Byte) (serial : Word48) (crc : Byte) : encodeFields family serial crc =
    ⟨crc ++ serial.extractLsb' 24 24, serial.extractLsb' 0 24 ++ family⟩ := by
  simp only [encodeFields, packFields_eq, splitWord_eq, RawSearchResult.mk.injEq]
  refine ⟨?_, ?_⟩ <;> refine BitVec.eq_of_getLsbD_eq fun i hi => ?_
  · simp only [BitVec.getLsbD_extractLsb', getLsbD_append_8_48_8, getLsbD_append_8_24]
    interval_cases i <;> simp
  · simp only [BitVec.getLsbD_extractLsb', getLsbD_append_8_48_8, getLsbD_append_24_8]
    interval_cases i <;> simp

/-- R82: inside the domain the operand is the 48-bit serial of the same value. -/
theorem serial48?_of_lt {serial : Word64} (h : serial.toNat < 2 ^ 48) :
    serial48? serial = some (serial.extractLsb' 0 48) := by
  rw [serial48?, if_pos h]
  congr 1

/-- R82: outside the domain there is none. -/
theorem serial48?_of_ge {serial : Word64} (h : ¬ serial.toNat < 2 ^ 48) : serial48? serial = none := if_neg h

end Sys2Proof.Machine
end

