-- ==== Sys2Proof/Laws/PerInstr.lean ====
section
/-! SUPPORT. Statements made per operation: an operation's encoding has its table row's width. -/

namespace Sys2Proof.Laws

theorem toWire_length (n v : Nat) : (toWire n v).length = n := by
  induction n generalizing v with
  | zero => rfl
  | succ n ih => simp [toWire, ih]

/-- The bytes of an operation are exactly as many as its row of spec/opcode_table.json is wide. -/
def EncodedLength.Statement (i : Instr) : Prop := (encode i).length = i.row.bytes

theorem EncodedLength.combine (h l : Word32) : EncodedLength.Statement (.combine h l) := toWire_length _ _
theorem EncodedLength.extFamily (l : Word32) : EncodedLength.Statement (.extFamily l) := toWire_length _ _
theorem EncodedLength.extCrc (h : Word32) : EncodedLength.Statement (.extCrc h) := toWire_length _ _
theorem EncodedLength.extSerialHi (h : Word32) : EncodedLength.Statement (.extSerialHi h) := toWire_length _ _
theorem EncodedLength.extSerialLo (l : Word32) : EncodedLength.Statement (.extSerialLo l) := toWire_length _ _
theorem EncodedLength.extSerial (u l : Piece) : EncodedLength.Statement (.extSerial u l) := toWire_length _ _
theorem EncodedLength.decode (h l : Word32) : EncodedLength.Statement (.decode h l) := toWire_length _ _
theorem EncodedLength.decode64 (c : Word64) : EncodedLength.Statement (.decode64 c) := toWire_length _ _
theorem EncodedLength.pack (f : Byte) (s : Word64) (c : Byte) : EncodedLength.Statement (.pack f s c) := toWire_length _ _
theorem EncodedLength.split (c : Word64) : EncodedLength.Statement (.split c) := toWire_length _ _
theorem EncodedLength.encode (f : Byte) (s : Word64) (c : Byte) : EncodedLength.Statement (.encode f s c) := toWire_length _ _

end Sys2Proof.Laws
end

