-- ==== Sys2Proof/Laws/State.lean ====
section
/-! SUPPORT. One lemma per field, output and net that an operation of Machine/Ops.lean writes or must keep, true by
unfolding, so that no proof unfolds a record update. -/

namespace Sys2Proof.Machine

@[simp] theorem State.presentHigh_high (s : State) (h : Word32) : (s.presentHigh h).high = h := rfl
@[simp] theorem State.presentHigh_low (s : State) (h : Word32) : (s.presentHigh h).low = s.low := rfl
@[simp] theorem State.presentHigh_refCombined (s : State) (h : Word32) :
    (s.presentHigh h).refCombined = s.refCombined := rfl
@[simp] theorem State.presentHigh_refHigh (s : State) (h : Word32) : (s.presentHigh h).refHigh = s.refHigh := rfl
@[simp] theorem State.presentHigh_refLow (s : State) (h : Word32) : (s.presentHigh h).refLow = s.refLow := rfl

@[simp] theorem State.presentLow_high (s : State) (l : Word32) : (s.presentLow l).high = s.high := rfl
@[simp] theorem State.presentLow_low (s : State) (l : Word32) : (s.presentLow l).low = l := rfl
@[simp] theorem State.presentLow_refCombined (s : State) (l : Word32) :
    (s.presentLow l).refCombined = s.refCombined := rfl
@[simp] theorem State.presentLow_refHigh (s : State) (l : Word32) : (s.presentLow l).refHigh = s.refHigh := rfl
@[simp] theorem State.presentLow_refLow (s : State) (l : Word32) : (s.presentLow l).refLow = s.refLow := rfl

@[simp] theorem State.present_high (s : State) (h l : Word32) : (s.present h l).high = h := rfl
@[simp] theorem State.present_low (s : State) (h l : Word32) : (s.present h l).low = l := rfl
@[simp] theorem State.present_refCombined (s : State) (h l : Word32) :
    (s.present h l).refCombined = s.refCombined := rfl
@[simp] theorem State.present_refHigh (s : State) (h l : Word32) : (s.present h l).refHigh = s.refHigh := rfl
@[simp] theorem State.present_refLow (s : State) (h l : Word32) : (s.present h l).refLow = s.refLow := rfl

@[simp] theorem State.presentPieces_high (s : State) (u l : Piece) :
    (s.presentPieces u l).high = s.high.extractLsb' 24 8 ++ u := rfl
@[simp] theorem State.presentPieces_low (s : State) (u l : Piece) :
    (s.presentPieces u l).low = l ++ s.low.extractLsb' 0 8 := rfl
@[simp] theorem State.presentPieces_refCombined (s : State) (u l : Piece) :
    (s.presentPieces u l).refCombined = s.refCombined := rfl
@[simp] theorem State.presentPieces_refHigh (s : State) (u l : Piece) : (s.presentPieces u l).refHigh = s.refHigh := rfl
@[simp] theorem State.presentPieces_refLow (s : State) (u l : Piece) : (s.presentPieces u l).refLow = s.refLow := rfl

@[simp] theorem State.setRefCombined_high (s : State) (c : Word64) : (s.setRefCombined c).high = s.high := rfl
@[simp] theorem State.setRefCombined_low (s : State) (c : Word64) : (s.setRefCombined c).low = s.low := rfl
@[simp] theorem State.setRefCombined_refCombined (s : State) (c : Word64) : (s.setRefCombined c).refCombined = c := rfl
@[simp] theorem State.setRefCombined_refHigh (s : State) (c : Word64) : (s.setRefCombined c).refHigh = s.refHigh := rfl
@[simp] theorem State.setRefCombined_refLow (s : State) (c : Word64) : (s.setRefCombined c).refLow = s.refLow := rfl

@[simp] theorem State.setRefWords_high (s : State) (r : RawSearchResult) : (s.setRefWords r).high = s.high := rfl
@[simp] theorem State.setRefWords_low (s : State) (r : RawSearchResult) : (s.setRefWords r).low = s.low := rfl
@[simp] theorem State.setRefWords_refCombined (s : State) (r : RawSearchResult) :
    (s.setRefWords r).refCombined = s.refCombined := rfl
@[simp] theorem State.setRefWords_refHigh (s : State) (r : RawSearchResult) : (s.setRefWords r).refHigh = r.high := rfl
@[simp] theorem State.setRefWords_refLow (s : State) (r : RawSearchResult) : (s.setRefWords r).refLow = r.low := rfl

/-- What each output and net carries, from the input pair: the wiring of the rules (R58 to R64). -/
theorem State.combined_def (s : State) : s.combined = combineWords s.high s.low := rfl
theorem State.family_def (s : State) : s.family = familyOf s.low := rfl
theorem State.crc_def (s : State) : s.crc = crcOf s.high := rfl
theorem State.serialUpper_def (s : State) : s.serialUpper = serialUpperOf s.high := rfl
theorem State.serialLower_def (s : State) : s.serialLower = serialLowerOf s.low := rfl
theorem State.serial_def (s : State) : s.serial = joinSerial (serialUpperOf s.high) (serialLowerOf s.low) := rfl
theorem State.sample_def (s : State) : s.sample = decodeWords s.high s.low := rfl

/-- Presenting the pair the ports carry changes nothing. -/
@[simp] theorem State.present_self (s : State) : s.present s.high s.low = s := rfl
@[simp] theorem State.presentHigh_self (s : State) : s.presentHigh s.high = s := rfl
@[simp] theorem State.presentLow_self (s : State) : s.presentLow s.low = s := rfl

/-- Of two pairs presented the last one holds. -/
@[simp] theorem State.present_present (s : State) (h l h' l' : Word32) :
    (s.present h l).present h' l' = s.present h' l' := rfl

/-- Two states that agree in every field are equal. -/
@[ext] theorem State.eq_of_fields {s t : State} (h1 : s.high = t.high) (h2 : s.low = t.low)
    (h3 : s.refCombined = t.refCombined) (h4 : s.refHigh = t.refHigh) (h5 : s.refLow = t.refLow) : s = t := by
  cases s; cases t; simp_all

end Sys2Proof.Machine
end

