-- ==== Sys2Proof/Laws/Step.lean ====
section
/-! SUPPORT. What a step can do, said once. -/

namespace Sys2Proof.Machine

/-- The block reads from its ports DECODE of the pair they carry (spec/30_encoding.md R44). -/
theorem decodeRom_fetch (s : State) : decodeRom s.fetch = .decode s.high s.low := by
  simp only [decodeRom, readRow, State.fetch, highField, lowField, Instr.decode.injEq]
  refine ⟨?_, ?_⟩ <;> refine BitVec.eq_of_getLsbD_eq fun i hi => ?_
  · simp [getLsbD_append_32_32, hi]
  · simp [getLsbD_append_32_32, hi]

/-- A step evaluates the block on the pair its ports carry; the block keeps nothing, so the state is as it was and its
outputs carry the decode (R13, R57). -/
theorem step_eq_self (s : State) : step s = .next s := by
  rw [step, decodeRom_fetch]
  rfl

end Sys2Proof.Machine
end

