-- ==== Sys2Proof/Laws/Wire.lean ====
section
/-! SUPPORT. Bytes in wire order (spec/20_memory.md R31): what the helpers of Decode.lean do. -/

namespace Sys2Proof

/-- Taking as many bytes as stand in front gives them back with the rest. -/
theorem takeBytes_append (front rest : List Byte) : takeBytes front.length (front ++ rest) = some (front, rest) := by
  induction front with
  | nil => rfl
  | cons b front ih => simp [takeBytes, ih]

/-- What taking bytes can answer: exactly the first `n` bytes and what follows them. -/
theorem takeBytes_eq_some {n : Nat} {bs front rest : List Byte} (h : takeBytes n bs = some (front, rest)) :
    bs = front ++ rest ∧ front.length = n := by
  induction n generalizing bs front rest with
  | zero => simp_all [takeBytes]
  | succ n ih =>
    cases bs with
    | nil => simp [takeBytes] at h
    | cons b bs =>
      simp only [takeBytes] at h
      split at h
      · rename_i f r hf
        obtain ⟨rfl, rfl⟩ : b :: f = front ∧ r = rest := by simpa using h
        obtain ⟨h1, h2⟩ := ih hf
        exact ⟨by rw [h1]; rfl, by rw [List.length_cons, h2]⟩
      · simp at h

/-- Taking bytes fails exactly where there are too few. -/
theorem takeBytes_eq_none (n : Nat) (bs : List Byte) : takeBytes n bs = none ↔ bs.length < n := by
  induction n generalizing bs with
  | zero => simp [takeBytes]
  | succ n ih =>
    cases bs with
    | nil => simp [takeBytes]
    | cons b bs =>
      have := ih bs
      simp only [takeBytes, List.length_cons]
      cases h : takeBytes n bs with
      | none => simp_all
      | some p => simp_all

/-- A number is its low bytes, as far as they reach. -/
theorem fromWire_toWire (n v : Nat) : fromWire (toWire n v) = v % 256 ^ n := by
  induction n generalizing v with
  | zero => simp [toWire, fromWire, Nat.mod_one]
  | succ n ih => simp [toWire, fromWire, ih, Nat.pow_succ', Nat.mod_mul]

/-- Bytes are the bytes of their number. -/
theorem toWire_fromWire (bs : List Byte) : toWire bs.length (fromWire bs) = bs := by
  induction bs with
  | nil => rfl
  | cons b bs ih =>
    have hb := b.isLt
    have h1 : (b.toNat + 256 * fromWire bs) / 256 = fromWire bs := by omega
    have h2 : BitVec.ofNat 8 (b.toNat + 256 * fromWire bs) = b := by
      apply BitVec.eq_of_toNat_eq
      simp only [BitVec.toNat_ofNat]
      omega
    simp only [List.length_cons, toWire, fromWire, h1, h2, ih]

end Sys2Proof
end

