-- ==== Sys2Proof/Tests/Slice0.lean ====
section
/-! SUPPORT. Tests on small values. Expected results are those of spec/95_test_vectors.md (each named), of the layouts of
spec/30_encoding.md, or worked by hand from a rule where no vector stands; then one witness for each statement of
Certificates/Slice0/Obligations.lean that has hypotheses. -/

namespace Sys2Proof.Tests

open Sys2Proof.Machine

/-- A state whose ports carry one pair; the reference results hold a value no test expects to see written. -/
def start (high low : Word32) : State :=
  ⟨(), high, low, 0xEEEEEEEEEEEEEEEE#64, 0xEEEEEEEE#32, 0xEEEEEEEE#32⟩

/-- The next state, if there is one. -/
def nextOf : Host.Outcome State Fault Refusal → Option State
  | .next t => some t
  | .fault _ => none
  | .refused _ => none

/-- The refusal, if there is one. -/
def refusalOf : Host.Outcome State Fault Refusal → Option Refusal
  | .next _ => none
  | .fault _ => none
  | .refused r => some r

/-- One operation on the blank state. -/
def after (i : Instr) : Option State := nextOf (exec i (start 0#32 0#32))

/-- One step on a pair. -/
def stepOn (high low : Word32) : Option State := nextOf (step (start high low))

/-! ## WellFormed: an ill-formed term for each check -/

theorem test_wellFormed_refuses_wide_pack : (Instr.pack 0#8 0x1000000000000#64 0#8).wellFormed = false := by decide
theorem test_wellFormed_refuses_wide_encode : (Instr.encode 0#8 0x1000000000000#64 0#8).wellFormed = false := by decide
theorem test_wellFormed_admits_boundaries :
    (Instr.pack 0#8 0xFFFFFFFFFFFF#64 0#8).wellFormed = true ∧
    (Instr.encode 0#8 0xFFFFFFFFFFFF#64 0#8).wellFormed = true := by decide

/-! ## Decoding: words written out bit by bit from R45 to R47 and the table's patterns -/

/-- `crc 10000101`, serial bytes `00000000 00000000 00001010 00011011 00101100 00111101`, `family 00000001`: the bits
program P1 gives. -/
def romP1 : Nat := 0b1000010100000000000000000000101000011011001011000011110100000001

theorem test_decode_P1 : decodeTableWord 64 romP1 = some (.decode 0x8500000A#32 0x1B2C3D01#32) := by decide
theorem test_readRow_combine :
    readRow .combine 0b1000000000000000000000000000000000000000000000000000000000000001#64 =
      .combine 0x80000000#32 0x00000001#32 := by decide
theorem test_readRow_extFamily : readRow .extFamily 0b11111111111111111111111110100111#64 = .extFamily 0xFFFFFFA7#32 := by
  decide
theorem test_readRow_extCrc : readRow .extCrc 0b11000011000000000000000000000000#64 = .extCrc 0xC3000000#32 := by decide
theorem test_readRow_extSerial :
    readRow .extSerial 0b100000000000000000000001010000000000000000000011#64 =
      .extSerial 0x800001#24 0x400003#24 := by decide
theorem test_readRow_pack : readRow .pack (BitVec.ofNat 64 romP1) = .pack 0x01#8 0x00000A1B2C3D#64 0x85#8 := by decide
theorem test_encode_bytes_P1 :
    encode (.encode 0x01#8 0x00000A1B2C3D#64 0x85#8) =
      [0x01#8, 0x3D#8, 0x2C#8, 0x1B#8, 0x0A#8, 0x00#8, 0x00#8, 0x85#8] := by decide
theorem test_decode_short : decode [1#8, 2#8, 3#8, 4#8, 5#8, 6#8, 7#8] = .error (.tooShort .decode) := by decide
/-- A row shorter than 64 bits is laid out from bit 0 (log entry 7). -/
theorem test_decode_short_row : decodeTableWord 32 0x89ABCDEF = some (.decode 0#32 0x89ABCDEF#32) := by decide

/-! ## The operations, one step each -/

/-- X1. -/
theorem test_combine_X1 : (after (.combine 0x89ABCDEF#32 0x01234567#32)).map State.combined =
    some 0x89ABCDEF01234567#64 := by decide
/-- X3: nothing of `high` is lost. -/
theorem test_combine_X3 : (after (.combine 0xFFFFFFFF#32 0#32)).map State.combined = some 0xFFFFFFFF00000000#64 := by
  decide
/-- X4. -/
theorem test_extFamily_X4 : (after (.extFamily 0xFFFFFF00#32)).map State.family = some 0x00#8 := by decide
/-- X5. -/
theorem test_extFamily_X5 : (after (.extFamily 0x000000A7#32)).map State.family = some 0xA7#8 := by decide
/-- X6. -/
theorem test_extCrc_X6 : (after (.extCrc 0x00FFFFFF#32)).map State.crc = some 0x00#8 := by decide
/-- X7. -/
theorem test_extCrc_X7 : (after (.extCrc 0xC3000000#32)).map State.crc = some 0xC3#8 := by decide
/-- X9: detects the 32-bit left shift of R109. -/
theorem test_extSerialHi_X9 : (after (.extSerialHi 0x00ABCDEF#32)).map State.serialUpper = some 0xABCDEF000000#48 := by
  decide
/-- X8: the crc bits are masked off. -/
theorem test_extSerialHi_X8 : (after (.extSerialHi 0xFF000000#32)).map State.serialUpper = some 0#48 := by decide
/-- X12: detects the arithmetic right shift of R110. -/
theorem test_extSerialLo_X12 : (after (.extSerialLo 0xABCDEF00#32)).map State.serialLower = some 0x000000ABCDEF#48 := by
  decide
/-- X11: the family bits are masked off. -/
theorem test_extSerialLo_X11 : (after (.extSerialLo 0x000000FF#32)).map State.serialLower = some 0#48 := by decide
/-- X14. -/
theorem test_extSerial_X14 : (after (.extSerial 0xABCDEF#24 0x012345#24)).map State.serial =
    some 0xABCDEF012345#48 := by decide
/-- V10, all four field boundaries at once, and V4, no sign extension, through the step: together they detect every
false variant M1 to M6. -/
theorem test_decode_V10_V4 :
    (stepOn 0x01800000#32 0x00000180#32).map State.sample = some ⟨0x80#8, 0x800000000001#48, 0x01#8⟩ ∧
    (stepOn 0#32 0x80000000#32).map State.sample = some ⟨0x00#8, 0x000000800000#48, 0x00#8⟩ := by decide
/-- S3 with the corrected value of conflict C1, as one operation, with the nets. -/
theorem test_decode_S3 : (after (.decode 0x00123456#32 0x789ABC00#32)).map
    (fun t => (t.sample, t.serialUpper, t.serialLower, t.combined)) =
    some (⟨0x00#8, 0x123456789ABC#48, 0x00#8⟩, 0x123456000000#48, 0x000000789ABC#48, 0x00123456789ABC00#64) := by decide
/-- X16. -/
theorem test_decode64_X16 : (after (.decode64 0x89ABCDEF01234567#64)).map State.sample =
    some ⟨0x67#8, 0xABCDEF012345#48, 0x89#8⟩ := by decide
/-- E9. -/
theorem test_pack_E9 : (after (.pack 0x67#8 0xABCDEF012345#64 0x89#8)).map State.refCombined =
    some 0x89ABCDEF01234567#64 := by decide
/-- The domain paragraph of spec/95_test_vectors.md section 2.2: refused, not masked. -/
theorem test_pack_refuses_2_48 : refusalOf (exec (.pack 0#8 0x1000000000000#64 0#8) (start 0#32 0#32)) =
    some (.serialOutOfDomain 0x1000000000000#64) := by decide
/-- The example of R78. -/
theorem test_split_R78 : (after (.split 0x89ABCDEF01234567#64)).map State.refWords =
    some ⟨0x89ABCDEF#32, 0x01234567#32⟩ := by decide
/-- E7: serial bits 23 and 24, the word boundary. -/
theorem test_encode_E7 : (after (.encode 0x00#8 0x000001800000#64 0x00#8)).map State.refWords =
    some ⟨0x00000001#32, 0x80000000#32⟩ := by decide
/-- E2: the largest fields. -/
theorem test_encode_E2 : (after (.encode 0xFF#8 0xFFFFFFFFFFFF#64 0xFF#8)).map State.refWords =
    some ⟨0xFFFFFFFF#32, 0xFFFFFFFF#32⟩ := by decide
/-- The first step after reset runs what `withFetchWord` presents, whatever the free input ports carried (V13). -/
theorem test_step_from_reset_V13 : (nextOf (step (State.reset.withFetchWord 64 0x89ABCDEF01234567))).map State.sample =
    some ⟨0x67#8, 0xABCDEF012345#48, 0x89#8⟩ := by decide

/-! ## Scripts and the environment -/

/-- The torn pair of program P4: `high` of A with `low` of B. -/
theorem test_script_P4_torn : (runScript [.present 0x89ABCDEF#32 0x9ABCDEF0#32, .sample] (start 0#32 0#32)).2 =
    [.sampled ⟨0xF0#8, 0xABCDEF9ABCDE#48, 0x89#8⟩] := by decide

/-- Some configuration values; the source gives none (N4). -/
def someConfig : BusConfig := ⟨3#32, 1#32, 0x77#32⟩

/-- All calls succeed, with the words read in program P1. -/
def answersP1 : BusAnswers := ⟨true, true, true, true, true, true, some 0x8500000A#32, some 0x1B2C3D01#32, true⟩

/-- Program P1 shows its SAMPLE after the two reads and before the close. -/
theorem test_attempt_P1 : (runScript (readAttempt someConfig answersP1).script (start 0#32 0#32)).2.drop 6 =
    [.answered (.call (.readRegister .searchResultHigh Config.readDefault)) (.okWord 0x8500000A#32),
      .answered (.call (.readRegister .searchResultLow Config.readDefault)) (.okWord 0x1B2C3D01#32),
      .sampled ⟨0x01#8, 0x00000A1B2C3D#48, 0x85#8⟩, .answered (.call .closeDevice) .ok] := rfl

/-- All calls succeed but the write of the receive length, as in program P5. -/
def answersP5 : BusAnswers := ⟨true, true, true, false, true, true, some 0#32, some 0#32, true⟩

/-- The lines of program P5. -/
theorem test_attempt_P5 : (readAttempt someConfig answersP5).script =
    [.env (.call .openDevice) .ok, .env (.call (.writeRegister .dataLinePin 3#32)) .ok,
      .env (.call (.writeRegister .pullupDisable 1#32)) .ok,
      .env (.call (.writeRegister .rxByteCount 8#32)) (.fail .writeError), .env (.call .closeDevice) .ok] ∧
    (readAttempt someConfig answersP5).result = .error (.busError (.setting .receiveLength)) := by decide

/-- R92: an open cannot end in WriteError, nor a read in `ok` without its value; R38: a configuration can name its
setting. -/
theorem test_admits : (EnvOperation.call .openDevice).admits (.fail .writeError) = false ∧
    (EnvOperation.call (.readRegister .searchResultLow 0#32)).admits .ok = false ∧
    (EnvOperation.configure someConfig).admits (.fail (.busError (.setting .searchOpcode))) = true ∧
    EnvOperation.executeSearch.admits (.okPair ⟨0x8500000A#32, 0x1B2C3D01#32⟩) = true := by decide

/-! ## Witnesses: the hypotheses of each statement that has some can be met, at a boundary where it has a range -/

theorem witness_EveryOutputBitIsOneInputBit : (63 < 64) ∧
    (0x80000000#32 ++ 0#32 : Word64) = (0#32 ++ 0#32) ^^^ (1#64 <<< 63) := by decide
theorem witness_OrderOfTheOperationsIsIrrelevant : List.Perm
    [Instr.extSerial ((0x89ABCDEF#32).extractLsb' 0 24) ((0x01234567#32).extractLsb' 8 24),
      .extCrc 0x89ABCDEF#32, .extSerialLo 0x01234567#32, .combine 0x89ABCDEF#32 0x01234567#32,
      .extSerialHi 0x89ABCDEF#32, .extFamily 0x01234567#32]
    [.combine 0x89ABCDEF#32 0x01234567#32, .extFamily 0x01234567#32, .extCrc 0x89ABCDEF#32, .extSerialHi 0x89ABCDEF#32,
      .extSerialLo 0x01234567#32,
      .extSerial ((0x89ABCDEF#32).extractLsb' 0 24) ((0x01234567#32).extractLsb' 8 24)] := by decide
theorem witness_PackConcatenatesTheFields : (0xFFFFFFFFFFFF#64).toNat < 2 ^ 48 := by decide
theorem witness_PackConcatenatesTheFields_refused : 2 ^ 48 ≤ (0x1000000000000#64).toNat := by decide
theorem witness_DomainOfPackAndEncode_refused : ¬ (0x1000000000000#64).toNat < 2 ^ 48 := by decide
theorem witness_EncodeIsSplitAfterPack : (0xFFFFFFFFFFFF#64).toNat < 2 ^ 48 := by decide
theorem witness_EncodeIsSplitAfterPack_refused : 2 ^ 48 ≤ (0xFFFFFFFFFFFFFFFF#64).toNat := by decide
theorem witness_ReferenceFunctionsTouchNoPort :
    (Instr.pack 0x67#8 0xABCDEF012345#64 0x89#8).row ∈ [Row.pack, Row.split, Row.encode] ∧
    (after (.pack 0x67#8 0xABCDEF012345#64 0x89#8)).isSome = true := by decide
theorem witness_BlockOperationsTouchNoReferenceResult :
    (Instr.decode64 0x0000000100000002#64).row ∉ [Row.pack, Row.split, Row.encode] ∧
    (after (.decode64 0x0000000100000002#64)).isSome = true := by decide

theorem witness_StepRunsTheDecodedOperation :
    decode (toWire 8 (start 0x89ABCDEF#32 0x01234567#32).fetch.toNat) =
      .ok (.decode 0x89ABCDEF#32 0x01234567#32, []) := by decide
theorem witness_StepSettlesTheBlock : (stepOn 0x89ABCDEF#32 0x01234567#32).isSome = true := by decide
theorem witness_OutputsDependOnTheInputsAlone :
    (start 1#32 2#32).high = { start 1#32 2#32 with refHigh := 0x11#32 }.high ∧
    (start 1#32 2#32).low = { start 1#32 2#32 with refHigh := 0x11#32 }.low ∧
    start 1#32 2#32 ≠ { start 1#32 2#32 with refHigh := 0x11#32 } := by decide
theorem witness_SerialNetsKeepTheirShape :
    (after (.extSerial 0xABCDEF#24 0x012345#24)).isSome = true ∧ (stepOn 1#32 2#32).isSome = true := by decide
theorem witness_RowDecodeOfEncodeIsTheOperation :
    (Instr.extSerial 0xFFFFFF#24 0xFFFFFF#24).wellFormed = true ∧
    (Instr.encode 0xFF#8 0xFFFFFFFFFFFF#64 0xFF#8).wellFormed = true := by decide
theorem witness_RowEncodeOfDecodeIsTheBytes : decodeRow .extCrc [0xEF#8, 0xCD#8, 0xAB#8, 0x89#8, 0x55#8] =
    .ok (.extCrc 0x89ABCDEF#32, [0x55#8]) := by decide
theorem witness_EveryPatternOfEightBytesIsLegal :
    8 ≤ [0#8, 0#8, 0#8, 0#8, 0#8, 0#8, 0#8, 0#8].length ∧
    ([0#8, 0#8, 0#8, 0#8, 0#8, 0#8, 0#8] : List Byte).length < 8 := by decide

theorem witness_FailedSettingPreventsTheSearch :
    settings = [.dataLine, .pullupDisable] ++ .receiveLength :: [.searchOpcode] ∧
    (∀ y ∈ [Setting.dataLine, Setting.pullupDisable], answersP5.settingOk y = true) ∧
    answersP5.settingOk .receiveLength = false ∧ answersP5.openOk = true := by decide
theorem witness_HandleIsClosedExactlyOnce : answersP5.openOk = true := by decide
theorem witness_NoPairAfterAFailure :
    (readAttempt someConfig answersP5).result = .error (.busError (.setting .receiveLength)) ∧
    (readAttempt someConfig answersP1).result = .ok ⟨0x8500000A#32, 0x1B2C3D01#32⟩ := by decide
theorem witness_AttemptLinesAreAdmitted :
    .env (.call (.writeRegister .rxByteCount 8#32)) (.fail .writeError) ∈ (readAttempt someConfig answersP5).script := by
  decide
theorem witness_SessionOperationsAreAdmitted_configure :
    (configure someConfig answersP5).2 = .error (.busError (.setting .receiveLength)) := by decide
theorem witness_SessionOperationsAreAdmitted_search :
    (executeSearch { answersP1 with lowRead := none }).2 = .error (.busError (.result .searchResultLow)) := by decide
theorem witness_FailedOpenEndsTheAttempt : { answersP5 with openOk := false }.openOk = false := by decide

end Sys2Proof.Tests
end

/-! PROOF. Cutting and joining words: which slice of a concatenation is which part, and which slices give the word back
(spec/40_extract.md section 3). The library's lemmas, read at the written widths 32, 48 and 64. -/
section
namespace Sys2Proof

/-- Two concatenations of the same shape are equal exactly when their parts are. -/
theorem append_eq_append_iff {m n : Nat} {a c : BitVec m} {b d : BitVec n} :
    a ++ b = c ++ d ↔ a = c ∧ b = d := by
  constructor
  · intro h
    have hhi := congrArg (BitVec.extractLsb' n m) h
    have hlo := congrArg (BitVec.extractLsb' 0 n) h
    rw [BitVec.extractLsb'_append_eq_left, BitVec.extractLsb'_append_eq_left] at hhi
    rw [BitVec.extractLsb'_append_eq_right, BitVec.extractLsb'_append_eq_right] at hlo
    exact ⟨hhi, hlo⟩
  · rintro ⟨rfl, rfl⟩
    rfl

/-- `{high, low}[63:32] = high`. -/
theorem extract_high_append (high low : Word32) : (high ++ low : Word64).extractLsb' 32 32 = high :=
  BitVec.extractLsb'_append_eq_left

/-- `{high, low}[31:0] = low`. -/
theorem extract_low_append (high low : Word32) : (high ++ low : Word64).extractLsb' 0 32 = low :=
  BitVec.extractLsb'_append_eq_right

/-- `{w[63:32], w[31:0]} = w`. -/
theorem halves_append (w : Word64) : (w.extractLsb' 32 32 ++ w.extractLsb' 0 32 : Word64) = w :=
  BitVec.extractLsb'_append_extractLsb' (w := 32) (len := 32)

/-- `{high, low}[7:0] = low[7:0]`. -/
theorem extract_family_append (high low : Word32) :
    (high ++ low : Word64).extractLsb' 0 8 = low.extractLsb' 0 8 :=
  BitVec.extractLsb'_append_eq_of_add_le (by decide)

/-- `{high, low}[63:56] = high[31:24]`. -/
theorem extract_crc_append (high low : Word32) :
    (high ++ low : Word64).extractLsb' 56 8 = high.extractLsb' 24 8 :=
  BitVec.extractLsb'_append_eq_of_le (by decide)

/-- `{high, low}[55:8] = {high[23:0], low[31:8]}`: the serial is cut by the word boundary. -/
theorem extract_serial_append (high low : Word32) :
    (high ++ low : Word64).extractLsb' 8 48 = high.extractLsb' 0 24 ++ low.extractLsb' 8 24 := by
  have hhi : (high ++ low : Word64).extractLsb' 32 24 = high.extractLsb' 0 24 :=
    BitVec.extractLsb'_append_eq_of_le (by decide)
  have hlo : (high ++ low : Word64).extractLsb' 8 24 = low.extractLsb' 8 24 :=
    BitVec.extractLsb'_append_eq_of_add_le (by decide)
  rw [← hhi, ← hlo]
  exact (BitVec.extractLsb'_append_extractLsb'_eq_extractLsb' (start₁ := 8) (len₁ := 24) (len₂ := 24) rfl).symm

/-- `{w[63:56], w[55:8], w[7:0]} = w`: the three fields cover the word. -/
theorem fields_append (w : Word64) :
    (w.extractLsb' 56 8 ++ w.extractLsb' 8 48 ++ w.extractLsb' 0 8 : Word64) = w := by
  have hupper : (w.extractLsb' 56 8 ++ w.extractLsb' 8 48 : BitVec 56) = w.extractLsb' 8 56 :=
    BitVec.extractLsb'_append_extractLsb'_eq_extractLsb' rfl
  rw [hupper]
  exact BitVec.extractLsb'_append_extractLsb' (w := 56) (len := 8)

/-- `{crc, serial, family}[7:0] = family`. -/
theorem extract_family_fields (crc : Byte) (serial : Word48) (family : Byte) :
    (crc ++ serial ++ family : Word64).extractLsb' 0 8 = family :=
  BitVec.extractLsb'_append_eq_right

/-- `{crc, serial, family}[55:8] = serial`. -/
theorem extract_serial_fields (crc : Byte) (serial : Word48) (family : Byte) :
    (crc ++ serial ++ family : Word64).extractLsb' 8 48 = serial :=
  (BitVec.extractLsb'_append_eq_of_le (le_refl 8)).trans BitVec.extractLsb'_append_eq_right

/-- `{crc, serial, family}[63:56] = crc`. -/
theorem extract_crc_fields (crc : Byte) (serial : Word48) (family : Byte) :
    (crc ++ serial ++ family : Word64).extractLsb' 56 8 = crc :=
  (BitVec.extractLsb'_append_eq_of_le (by decide)).trans BitVec.extractLsb'_append_eq_left

/-- R68: the 64-bit view of a serial has bits 63:48 equal to 0. -/
theorem extract_above_serial (serial : Word48) : (serial.setWidth 64).extractLsb' 48 16 = 0#16 := by
  refine BitVec.eq_of_getLsbD_eq fun i _ => ?_
  simp

end Sys2Proof
end

/-! PROOF. The pure operations undo one another: SPLIT and the concatenation of two words, PACK and the bit-position
decode of one word (spec/40_extract.md R66, R67, R70; spec/41_reference_pack_split.md R78 to R81). -/
section
namespace Sys2Proof.Machine

/-- SPLIT of `{high, low}` is the pair. -/
theorem splitWord_append (pair : RawSearchResult) : splitWord (pair.high ++ pair.low) = pair := by
  rw [splitWord_eq, extract_high_append, extract_low_append]

/-- The two words SPLIT gives, side by side, are the word. -/
theorem splitWord_halves (w : Word64) : (splitWord w).high ++ (splitWord w).low = w := by
  rw [splitWord_eq]
  exact halves_append w

/-- R67: the fields of a word, packed, are the word. -/
theorem packFields_decodeCombined (w : Word64) :
    packFields (decodeCombined w).family (decodeCombined w).serial (decodeCombined w).crc = w := by
  rw [packFields_eq, decodeCombined_eq]
  exact fields_append w

/-- The fields of a packed triple are the triple. -/
theorem decodeCombined_packFields (family : Byte) (serial : Word48) (crc : Byte) :
    decodeCombined (packFields family serial crc) = ⟨family, serial, crc⟩ := by
  rw [packFields_eq, decodeCombined_eq, extract_family_fields, extract_serial_fields, extract_crc_fields]

/-- R66: the fields of a pair are those of its combined word. -/
theorem fieldsOf_eq_decodeCombined (pair : RawSearchResult) :
    fieldsOf pair = decodeCombined (pair.high ++ pair.low) := by
  rw [decodeCombined_eq, extract_family_append, extract_serial_append, extract_crc_append]
  rfl

/-- R67: the fields of a pair, packed, are its combined word. -/
theorem packFields_fieldsOf (pair : RawSearchResult) :
    packFields (fieldsOf pair).family (fieldsOf pair).serial (fieldsOf pair).crc = pair.high ++ pair.low := by
  rw [fieldsOf_eq_decodeCombined, packFields_decodeCombined]

/-- R80: the fields of the pair ENCODE gives are the triple it was given. -/
theorem fieldsOf_encodeFields (family : Byte) (serial : Word48) (crc : Byte) :
    fieldsOf (encodeFields family serial crc) = ⟨family, serial, crc⟩ := by
  rw [fieldsOf_eq_decodeCombined, encodeFields, splitWord_halves, decodeCombined_packFields]

/-- R81: ENCODE of the fields of a pair is the pair. -/
theorem encodeFields_fieldsOf (pair : RawSearchResult) :
    encodeFields (fieldsOf pair).family (fieldsOf pair).serial (fieldsOf pair).crc = pair := by
  rw [encodeFields, packFields_fieldsOf, splitWord_append]

/-- R70: ENCODE is the two-sided inverse of the fields of a pair. -/
theorem fieldsOf_bijective : Function.Bijective fieldsOf :=
  Function.bijective_iff_has_inverse.mpr
    ⟨fun r => encodeFields r.family r.serial r.crc, encodeFields_fieldsOf,
      fun r => fieldsOf_encodeFields r.family r.serial r.crc⟩

/-- R58: the two terms of COMBINE occupy disjoint bits. -/
theorem combine_terms_disjoint (high low : Word32) : (high.setWidth 64 <<< 32) &&& low.setWidth 64 = 0#64 := by
  refine BitVec.eq_of_getLsbD_eq fun i hi => ?_
  simp only [BitVec.getLsbD_and, BitVec.getLsbD_shiftLeft, BitVec.getLsbD_setWidth, BitVec.getLsbD_zero]
  by_cases h : i < 32
  · simp [h]
  · simp [BitVec.getLsbD_of_ge low i (by omega)]

/-- R58: so their OR is their sum. -/
theorem combineWords_eq_add (high low : Word32) :
    combineWords high low = (high.setWidth 64 <<< 32) + low.setWidth 64 :=
  (BitVec.add_eq_or_of_and_eq_zero _ _ (combine_terms_disjoint high low)).symm

/-- R63: the sum of two pieces, each in its own half of the serial, is their concatenation. -/
theorem pieces_add (upper lower : Piece) : (upper ++ 0#24 : Word48) + (0#24 ++ lower) = upper ++ lower :=
  BitVec.append_zero_add_zero_append

/-- R63: two pieces, each in its own half of the serial, have no bit in common. -/
theorem pieces_disjoint (upper lower : Piece) : (upper ++ 0#24 : Word48) &&& (0#24 ++ lower) = 0#48 := by
  have h : (upper ++ 0#24) &&& (0#24 ++ lower) = 0#24 ++ 0#24 := by
    rw [BitVec.and_append, BitVec.and_zero, BitVec.zero_and]
  exact h

/-- R61: a piece in the upper half is the piece times 2^24. -/
theorem toNat_upper_piece (upper : Piece) : (upper ++ 0#24 : Word48).toNat = upper.toNat * 2 ^ 24 := by
  have h := BitVec.toNat_append upper 0#24
  rwa [BitVec.toNat_zero, Nat.or_zero, Nat.shiftLeft_eq] at h

/-- R62: a piece in the lower half keeps its value. -/
theorem toNat_lower_piece (lower : Piece) : (0#24 ++ lower : Word48).toNat = lower.toNat := by
  have h := BitVec.toNat_append 0#24 lower
  rwa [BitVec.toNat_zero, Nat.zero_shiftLeft, Nat.zero_or] at h

end Sys2Proof.Machine
end

/-! PROOF. What each operation of the block answers, and what the outputs and nets of a state are by bit positions. -/
section
namespace Sys2Proof.Machine

@[simp] theorem exec_combine (high low : Word32) (s : State) :
    exec (.combine high low) s = .next (s.present high low) := rfl

@[simp] theorem exec_extSerial (upper lower : Piece) (s : State) :
    exec (.extSerial upper lower) s = .next (s.presentPieces upper lower) := rfl

@[simp] theorem exec_decode (high low : Word32) (s : State) :
    exec (.decode high low) s = .next (s.present high low) := rfl

@[simp] theorem exec_decode64 (combined : Word64) (s : State) :
    exec (.decode64 combined) s = .next (s.present (splitWord combined).high (splitWord combined).low) := rfl

/-- R56: DECODE64 is DECODE of the two halves. -/
theorem exec_decode64_eq_decode (combined : Word64) (s : State) :
    exec (.decode64 combined) s = exec (.decode (combined.extractLsb' 32 32) (combined.extractLsb' 0 32)) s := by
  rw [exec_decode64, splitWord_eq, exec_decode]

/-- R56: DECODE64 of `{high, low}` is DECODE of the pair. -/
theorem exec_decode64_append (high low : Word32) (s : State) :
    exec (.decode64 (high ++ low)) s = exec (.decode high low) s := by
  rw [exec_decode64_eq_decode, extract_high_append, extract_low_append]

/-- R79: ENCODE of a 48-bit serial is in its domain and leaves its two words. -/
theorem exec_encode_setWidth (family : Byte) (serial : Word48) (crc : Byte) (s : State) :
    exec (.encode family (serial.setWidth 64) crc) s = .next (s.setRefWords (encodeFields family serial crc)) := by
  have hdom : (serial.setWidth 64).toNat < 2 ^ 48 := by
    rw [BitVec.toNat_setWidth_of_le (by decide)]
    exact serial.isLt
  have hcut : (serial.setWidth 64).extractLsb' 0 48 = serial := by
    rw [BitVec.extractLsb'_setWidth_of_le (by decide), BitVec.extractLsb'_eq_self]
  rw [exec, execEncode, serial48?_of_lt hdom, hcut]

@[simp] theorem State.setRefWords_refWords (s : State) (r : RawSearchResult) : (s.setRefWords r).refWords = r := rfl

/-- Presenting a pair touches no reference result. -/
theorem State.sameReference_present (s : State) (high low : Word32) : s.SameReference (s.present high low) :=
  ⟨rfl, rfl⟩

/-- R58: `combined = {high, low}`. -/
theorem State.combined_eq (s : State) : s.combined = s.high ++ s.low := combineWords_eq s.high s.low

/-- R59: `family = low[7:0]`. -/
theorem State.family_eq (s : State) : s.family = s.low.extractLsb' 0 8 := familyOf_eq s.low

/-- R60: `crc = high[31:24]`. -/
theorem State.crc_eq (s : State) : s.crc = s.high.extractLsb' 24 8 := crcOf_eq s.high

/-- R61: `serial_upper = {high[23:0], 24 zeros}`. -/
theorem State.serialUpper_eq (s : State) : s.serialUpper = s.high.extractLsb' 0 24 ++ 0#24 := serialUpperOf_eq s.high

/-- R62: `serial_lower = {24 zeros, low[31:8]}`. -/
theorem State.serialLower_eq (s : State) : s.serialLower = 0#24 ++ s.low.extractLsb' 8 24 := serialLowerOf_eq s.low

/-- R63: `serial = {high[23:0], low[31:8]}`. -/
theorem State.serial_eq (s : State) : s.serial = s.high.extractLsb' 0 24 ++ s.low.extractLsb' 8 24 := by
  rw [State.serial, State.serialUpper_eq, State.serialLower_eq, joinSerial_append]

/-- R64: the outputs together are the fields of the pair on the ports. -/
theorem State.sample_eq (s : State) : s.sample = fieldsOf ⟨s.high, s.low⟩ := decodeWords_eq s.high s.low

/-- R64: after DECODE the outputs are the fields of its pair. -/
theorem State.sample_present (s : State) (high low : Word32) : (s.present high low).sample = fieldsOf ⟨high, low⟩ :=
  (s.present high low).sample_eq

/-- R65: with the two halves of a word on the ports the outputs are its fields by bit position. -/
theorem State.sample_present_halves (s : State) (combined : Word64) :
    (s.present (combined.extractLsb' 32 32) (combined.extractLsb' 0 32)).sample = decodeCombined combined := by
  rw [State.sample_present, fieldsOf_eq_decodeCombined, halves_append]

/-- R67, R71: the outputs, packed, are the combined word. -/
theorem State.packFields_outputs (s : State) : packFields s.family s.serial s.crc = s.high ++ s.low := by
  rw [State.family_eq, State.serial_eq, State.crc_eq]
  exact packFields_fieldsOf ⟨s.high, s.low⟩

/-- R71: the outputs side by side are the combined word: the block is wires. -/
theorem State.outputs_append (s : State) : (s.crc ++ s.serial ++ s.family : Word64) = s.high ++ s.low := by
  rw [← packFields_eq, State.packFields_outputs]

/-- R63: presenting two pieces makes the nets carry them, each in its own half. -/
theorem State.presentPieces_serialUpper (s : State) (upper lower : Piece) :
    (s.presentPieces upper lower).serialUpper = upper ++ 0#24 := by
  have h : (s.high.extractLsb' 24 8 ++ upper : Word32).extractLsb' 0 24 = upper := BitVec.extractLsb'_append_eq_right
  rw [State.serialUpper_eq, State.presentPieces_high, h]

theorem State.presentPieces_serialLower (s : State) (upper lower : Piece) :
    (s.presentPieces upper lower).serialLower = 0#24 ++ lower := by
  have h : (lower ++ s.low.extractLsb' 0 8 : Word32).extractLsb' 8 24 = lower := BitVec.extractLsb'_append_eq_left
  rw [State.serialLower_eq, State.presentPieces_low, h]

/-- R63: the serial is then the two pieces side by side. -/
theorem State.presentPieces_serial (s : State) (upper lower : Piece) :
    (s.presentPieces upper lower).serial = upper ++ lower := by
  rw [State.serial, State.presentPieces_serialUpper, State.presentPieces_serialLower, joinSerial_append]

/-- R68: `serial_upper` is a multiple of 2^24 below 2^48. -/
theorem State.serialUpper_le (s : State) : s.serialUpper.toNat ≤ 2 ^ 48 - 2 ^ 24 := by
  have hpiece := (s.high.extractLsb' 0 24).isLt
  rw [State.serialUpper_eq, toNat_upper_piece]
  omega

/-- R68: `serial_lower` is below 2^24. -/
theorem State.serialLower_le (s : State) : s.serialLower.toNat ≤ 2 ^ 24 - 1 := by
  rw [State.serialLower_eq, toNat_lower_piece]
  exact Nat.le_pred_of_lt (BitVec.isLt _)

/-- R68: the two nets have no bit in common. -/
theorem State.nets_disjoint (s : State) : s.serialUpper &&& s.serialLower = 0#48 := by
  rw [State.serialUpper_eq, State.serialLower_eq, pieces_disjoint]

end Sys2Proof.Machine
end

/-! PROOF. The obligations of spec/40_extract.md. -/
section
namespace Sys2Proof.Machine

/-- Settles O14: the function is `fieldsOf`, with ENCODE as its two-sided inverse. -/
theorem decodeIsABijection : Obligations.DecodeIsABijection := by
  refine ⟨fieldsOf, fun high low s => ?_, fieldsOf_bijective, fun family serial crc s => ?_⟩
  · exact ⟨s.present high low, exec_decode high low s, s.sample_present high low⟩
  · refine ⟨s.setRefWords (encodeFields family serial crc), exec_encode_setWidth family serial crc s, ?_⟩
    rw [State.setRefWords_refWords, fieldsOf_encodeFields]

/-- Settles O6: each net carries its piece in its own half, so the join is the concatenation. -/
theorem extSerialJoinsTheNets : Obligations.ExtSerialJoinsTheNets := by
  constructor
  · intro upper lower s
    have hserial := s.presentPieces_serial upper lower
    refine ⟨s.presentPieces upper lower, exec_extSerial upper lower s, rfl, s.presentPieces_serialUpper upper lower,
      s.presentPieces_serialLower upper lower, rfl, ?_, hserial, ?_, ?_⟩
    · rw [hserial, State.presentPieces_serialUpper, State.presentPieces_serialLower, pieces_add]
    · rw [hserial]
      exact append_eq_append_iff (c := 0#24) (d := 0#24)
    · rw [hserial]
      exact append_eq_append_iff (c := 0xFFFFFF#24) (d := 0xFFFFFF#24)
  · intro high low s
    have hserial := s.presentPieces_serial (high.extractLsb' 0 24) (low.extractLsb' 8 24)
    exact ⟨_, exec_extSerial _ _ s, hserial, hserial.trans (extract_serial_append high low).symm⟩

/-- Settles O7: the outputs by bit positions; the masks and shifts are the model's own text of R59 to R63. -/
theorem decodeExtractsTheThreeFields : Obligations.DecodeExtractsTheThreeFields := by
  intro high low s
  exact ⟨s.present high low, exec_decode high low s, s.sameReference_present high low,
    State.family_eq _, State.serial_eq _, State.crc_eq _, rfl, rfl, rfl⟩

/-- Settles O8: DECODE64 presents the halves, whose fields are those of the word they join to. -/
theorem decode64ReadsBitPositions : Obligations.Decode64ReadsBitPositions := by
  intro combined s
  have hsample := s.sample_present_halves combined
  obtain ⟨hfamily, hserial, hcrc⟩ := RomCode.mk.inj hsample
  obtain ⟨hfamilyBits, hserialBits, hcrcBits⟩ := RomCode.mk.inj (hsample.trans (decodeCombined_eq combined))
  exact ⟨_, exec_decode64_eq_decode combined s, rfl, hfamilyBits, hserialBits, hcrcBits, hfamily, hserial, hcrc,
    hsample, exec_decode _ _ s⟩

/-- Settles O10: DECODE64 of `{high, low}` is DECODE of the pair. -/
theorem decodeAgreesWithDecode64 : Obligations.DecodeAgreesWithDecode64 := by
  intro high low s
  refine ⟨s.present high low, s.present high low, exec_decode high low s, exec_decode64_append high low s, rfl, ?_⟩
  rw [State.sample_present, fieldsOf_eq_decodeCombined]

/-- Settles O11: packing undoes the decode. -/
theorem fieldsRebuildTheCombinedWord : Obligations.FieldsRebuildTheCombinedWord := by
  intro high low s
  exact ⟨s.present high low, exec_decode high low s, (s.present high low).packFields_outputs.symm⟩

/-- Settles O12: the field ranges are their widths; the net bounds come from the halves the nets stand in. -/
theorem serialStaysInFortyEightBits : Obligations.SerialStaysInFortyEightBits := by
  intro high low s
  exact ⟨s.present high low, exec_decode high low s, Nat.le_pred_of_lt (BitVec.isLt _),
    Nat.le_pred_of_lt (BitVec.isLt _), Nat.le_pred_of_lt (BitVec.isLt _), extract_above_serial _,
    State.serialUpper_le _, State.serialLower_le _, State.nets_disjoint _⟩

/-- Settles O13: the triple is `fieldsOf` of the pair, in which no state stands. -/
theorem decodeIsAPureFunctionOfThePair : Obligations.DecodeIsAPureFunctionOfThePair := by
  intro high low
  refine ⟨fieldsOf ⟨high, low⟩, fun s => ⟨s.present high low, exec_decode high low s, s.sample_present high low, ?_,
    s.sameReference_present high low⟩⟩
  rw [exec_decode, State.present_present]

/-- Settles O15: the outputs side by side are the combined word, so a change of one bit of it is the change of that bit
of theirs. -/
theorem everyOutputBitIsOneInputBit : Obligations.EveryOutputBitIsOneInputBit := by
  constructor
  · intro high low s
    refine ⟨s.present high low, exec_decode high low s, fun i hi => ?_, fun i hi => ?_, fun i hi hi' => ?_,
      fun i hi => ?_⟩
    · simp [State.family_eq, hi]
    · simp [State.serial_eq, getLsbD_append_24_24, hi, Nat.add_comm]
    · simp [State.serial_eq, getLsbD_append_24_24, show ¬ i < 24 by omega, show i - 24 < 24 by omega]
    · simp [State.crc_eq, hi, Nat.add_comm]
  · intro high low high' low' k s _ hflip
    refine ⟨s.present high low, s.present high' low', exec_decode high low s, exec_decode high' low' s, ?_⟩
    rw [State.outputs_append, State.outputs_append]
    exact hflip

/-- Settles O1: the two terms have no bit in common. -/
theorem combineConcatenatesTheWords : Obligations.CombineConcatenatesTheWords := by
  intro high low s
  exact ⟨s.present high low, exec_combine high low s, rfl, State.combined_eq _, rfl, combineWords_eq_add high low,
    combine_terms_disjoint high low⟩

end Sys2Proof.Machine
end

/-! PROOF. PACK and ENCODE on their domain: a 64-bit serial below 2^48 is the 64-bit view of its low 48 bits, and the
three fields side by side are their sum (spec/41_reference_pack_split.md R77, R82). -/
section
namespace Sys2Proof

/-- The number of `{x, y}`: the two parts have no bit in common, so they add. -/
theorem toNat_append_eq_add {m n : Nat} (x : BitVec m) (y : BitVec n) :
    (x ++ y).toNat = x.toNat * 2 ^ n + y.toNat := by
  rw [BitVec.toNat_append, ← Nat.shiftLeft_add_eq_or_of_lt y.isLt, Nat.shiftLeft_eq]

/-- The number of `{crc, serial, family}`. -/
theorem toNat_fields (crc : Byte) (serial : Word48) (family : Byte) :
    (crc ++ serial ++ family : Word64).toNat = crc.toNat * 2 ^ 56 + serial.toNat * 2 ^ 8 + family.toNat := by
  calc (crc ++ serial ++ family : Word64).toNat
      = (crc.toNat * 2 ^ 48 + serial.toNat) * 2 ^ 8 + family.toNat := by
        rw [← toNat_append_eq_add]
        exact toNat_append_eq_add (crc ++ serial) family
    _ = crc.toNat * 2 ^ 56 + serial.toNat * 2 ^ 8 + family.toNat := by ring

/-- R82: inside the domain the low 48 bits of the operand, widened again, are the operand. -/
theorem setWidth_extract_serial {serial : Word64} (h : serial.toNat < 2 ^ 48) :
    (serial.extractLsb' 0 48).setWidth 64 = serial := by
  rw [← BitVec.setWidth_eq_extractLsb' (by decide)]
  exact BitVec.setWidth_setWidth_eq_self h

/-- R82: inside the domain cutting the operand to 48 bits keeps its value. -/
theorem toNat_extract_serial {serial : Word64} (h : serial.toNat < 2 ^ 48) :
    (serial.extractLsb' 0 48).toNat = serial.toNat := by
  rw [← BitVec.toNat_setWidth_of_le (w' := 64) (by decide), setWidth_extract_serial h]

end Sys2Proof

namespace Sys2Proof.Machine

/-- R77: inside the domain PACK is the OR of the three shifted fields, the 64-bit serial operand among them. -/
theorem packFields_extract_serial (family : Byte) {serial : Word64} (crc : Byte) (h : serial.toNat < 2 ^ 48) :
    packFields family (serial.extractLsb' 0 48) crc =
      (crc.setWidth 64 <<< 56) ||| (serial <<< 8) ||| family.setWidth 64 := by
  rw [packFields, setWidth_extract_serial h]

/-- R77: inside the domain PACK is the sum of the three shifted fields. -/
theorem toNat_packFields_extract_serial (family : Byte) {serial : Word64} (crc : Byte) (h : serial.toNat < 2 ^ 48) :
    (packFields family (serial.extractLsb' 0 48) crc).toNat =
      crc.toNat * 2 ^ 56 + serial.toNat * 2 ^ 8 + family.toNat := by
  rw [packFields_eq, toNat_fields, toNat_extract_serial h]

/-- R79: ENCODE of a serial given by its 64-bit operand cuts it at the word boundary. -/
theorem encodeFields_extract_serial (family : Byte) (serial : Word64) (crc : Byte) :
    encodeFields family (serial.extractLsb' 0 48) crc =
      ⟨crc ++ serial.extractLsb' 24 24, serial.extractLsb' 0 24 ++ family⟩ := by
  rw [encodeFields_eq, BitVec.extractLsb'_extractLsb'_of_le (by decide),
    BitVec.extractLsb'_extractLsb'_of_le (by decide)]

end Sys2Proof.Machine
end

/-! PROOF. What PACK, SPLIT and ENCODE answer, inside the domain and outside it. -/
section
namespace Sys2Proof.Machine

@[simp] theorem exec_split (combined : Word64) (s : State) :
    exec (.split combined) s = .next (s.setRefWords (splitWord combined)) := rfl

/-- R77: inside the domain PACK leaves its word. -/
theorem exec_pack_of_lt (family : Byte) {serial : Word64} (crc : Byte) (s : State) (h : serial.toNat < 2 ^ 48) :
    exec (.pack family serial crc) s =
      .next (s.setRefCombined (packFields family (serial.extractLsb' 0 48) crc)) := by
  rw [exec, execPack, serial48?_of_lt h]

/-- R82: outside the domain PACK is refused. -/
theorem exec_pack_of_ge (family : Byte) {serial : Word64} (crc : Byte) (s : State) (h : 2 ^ 48 ≤ serial.toNat) :
    exec (.pack family serial crc) s = .refused (.serialOutOfDomain serial) := by
  rw [exec, execPack, serial48?_of_ge h.not_gt]

/-- R79: inside the domain ENCODE leaves its two words. -/
theorem exec_encode_of_lt (family : Byte) {serial : Word64} (crc : Byte) (s : State) (h : serial.toNat < 2 ^ 48) :
    exec (.encode family serial crc) s =
      .next (s.setRefWords (encodeFields family (serial.extractLsb' 0 48) crc)) := by
  rw [exec, execEncode, serial48?_of_lt h]

/-- R82: outside the domain ENCODE is refused. -/
theorem exec_encode_of_ge (family : Byte) {serial : Word64} (crc : Byte) (s : State) (h : 2 ^ 48 ≤ serial.toNat) :
    exec (.encode family serial crc) s = .refused (.serialOutOfDomain serial) := by
  rw [exec, execEncode, serial48?_of_ge h.not_gt]

/-- R81: the outputs, encoded, are the pair on the ports. -/
theorem State.encodeFields_outputs (s : State) : encodeFields s.family s.serial s.crc = ⟨s.high, s.low⟩ := by
  rw [encodeFields, State.packFields_outputs]
  exact splitWord_append ⟨s.high, s.low⟩

end Sys2Proof.Machine
end

/-! PROOF. The obligations of spec/41_reference_pack_split.md R77 to R81. -/
section
namespace Sys2Proof.Machine

/-- Settles O22: ENCODE of a 48-bit serial is in its domain, and the fields of the pair it leaves are the triple. -/
theorem decodeOfEncodeIsTheTriple : Obligations.DecodeOfEncodeIsTheTriple := by
  intro family serial crc s
  refine ⟨_, _, exec_encode_setWidth family serial crc s, exec_decode _ _ _, ?_⟩
  rw [State.sample_present]
  exact fieldsOf_encodeFields family serial crc

/-- Settles O18: in the domain the operand is its low 48 bits, so the OR is the concatenation and the sum. -/
theorem packConcatenatesTheFields : Obligations.PackConcatenatesTheFields := by
  intro family serial crc s
  constructor
  · intro h
    exact ⟨_, exec_pack_of_lt family crc s h, rfl, packFields_eq _ _ _, packFields_extract_serial family crc h,
      toNat_packFields_extract_serial family crc h⟩
  · exact exec_pack_of_ge family crc s

/-- Settles O20: the two halves of a word, side by side, are the word, and the halves of `{high, low}` are the pair. -/
theorem splitCutsTheCombinedWord : Obligations.SplitCutsTheCombinedWord := by
  constructor
  · intro combined s
    obtain ⟨hhigh, hlow⟩ := RawSearchResult.mk.inj (splitWord_eq combined)
    refine ⟨_, _, exec_split combined s, rfl, hhigh, hlow, rfl, rfl, exec_combine _ _ _, ?_⟩
    rw [State.combined_eq]
    exact splitWord_halves combined
  · intro high low s
    refine ⟨_, _, exec_combine high low s, exec_split _ _, ?_⟩
    rw [State.setRefWords_refWords, State.combined_eq]
    exact splitWord_append ⟨high, low⟩

/-- Settles O21: in the domain ENCODE leaves the SPLIT of PACK, whose words cut the serial at bit 24. -/
theorem encodeIsSplitAfterPack : Obligations.EncodeIsSplitAfterPack := by
  intro family serial crc s
  constructor
  · intro h
    obtain ⟨hhigh, hlow⟩ := RawSearchResult.mk.inj (encodeFields_extract_serial family serial crc)
    exact ⟨_, _, _, exec_encode_of_lt family crc s h, rfl, hhigh, hlow, exec_pack_of_lt family crc s h,
      exec_split _ _, rfl⟩
  · exact exec_encode_of_ge family crc s

/-- Settles O23: the outputs fit the domain of ENCODE, which gives back the pair they were cut from. -/
theorem encodeOfDecodeIsThePair : Obligations.EncodeOfDecodeIsThePair := by
  intro high low s
  refine ⟨_, _, exec_decode high low s, exec_encode_setWidth _ _ _ _, ?_⟩
  rw [State.setRefWords_refWords]
  exact (s.present high low).encodeFields_outputs

end Sys2Proof.Machine
end

/-! PROOF. The obligation of spec/60_exceptions.md R83. -/
section
namespace Sys2Proof.Machine

/-- Settles O27: a step decodes the ports as DECODE of any pair, which presents that pair and cannot be refused, so it
answers the next state it started from. -/
theorem stepAlwaysAnswersAValue : Obligations.StepAlwaysAnswersAValue := by
  intro s
  rw [step_eq_self]
  exact ⟨⟨s, rfl⟩, nofun, nofun⟩

end Sys2Proof.Machine
end

/-! PROOF. Words and bytes of a row: the word of an operation fits its row's width, a row read from the word of its
operation is the operation, and the word of what a row reads is the word read (spec/30_encoding.md R45 to R48, R53). -/
section
namespace Sys2Proof

/-- The low bits of a word that fits in them, widened again, are the word. -/
theorem setWidth_extract_of_lt {n : Nat} {w : Word64} (h : w.toNat < 2 ^ n) : (w.extractLsb' 0 n).setWidth 64 = w := by
  apply BitVec.eq_of_toNat_eq
  rw [BitVec.toNat_setWidth, BitVec.extractLsb'_toNat, Nat.shiftRight_zero, Nat.mod_eq_of_lt h, Nat.mod_eq_of_lt w.isLt]

/-- The low bits of a widened value are the value. -/
theorem extract_setWidth {n : Nat} (x : BitVec n) (h : n ≤ 64) : (x.setWidth 64).extractLsb' 0 n = x := by
  rw [BitVec.extractLsb'_setWidth_of_le (by omega), BitVec.extractLsb'_eq_self]

/-- A widened value keeps its bound. -/
theorem toNat_setWidth_lt {n : Nat} (x : BitVec n) (h : n ≤ 64) : (x.setWidth 64).toNat < 2 ^ n := by
  rw [BitVec.toNat_setWidth_of_le h]
  exact x.isLt

/-- `{w[47:24], w[23:0]} = w[47:0]`. -/
theorem pieces_append (w : Word64) :
    (w.extractLsb' 24 24 ++ w.extractLsb' 0 24 : Word48) = w.extractLsb' 0 48 :=
  BitVec.extractLsb'_append_extractLsb'_eq_extractLsb' rfl

/-- `serial < 2^48` (R82), as the check decides it. -/
theorem serialInDomain_iff (serial : Word64) : serialInDomain serial = true ↔ serial.toNat < 2 ^ 48 :=
  decide_eq_true_iff

@[simp] theorem highField_append (high low : Word32) : highField (high ++ low) = high := extract_high_append high low
@[simp] theorem lowField_append (high low : Word32) : lowField (high ++ low) = low := extract_low_append high low
@[simp] theorem lowField_setWidth (low : Word32) : lowField (low.setWidth 64) = low := extract_setWidth low (by decide)
@[simp] theorem familyField_append (crc : Byte) (serial : Word48) (family : Byte) :
    familyField (crc ++ serial ++ family) = family := extract_family_fields crc serial family
@[simp] theorem crcField_append (crc : Byte) (serial : Word48) (family : Byte) :
    crcField (crc ++ serial ++ family) = crc := extract_crc_fields crc serial family

/-- R45: the serial of a ROM64 word is the serial it was laid out from. -/
theorem serialField_append (crc : Byte) {serial : Word64} (family : Byte) (h : serial.toNat < 2 ^ 48) :
    serialField (crc ++ serial.extractLsb' 0 48 ++ family) = serial := by
  rw [serialField, extract_serial_fields, setWidth_extract_of_lt h]

@[simp] theorem upperPieceField_append (upper lower : Piece) :
    upperPieceField ((upper ++ lower : Word48).setWidth 64) = upper := by
  rw [upperPieceField, BitVec.extractLsb'_setWidth_of_le (by decide)]
  exact BitVec.extractLsb'_append_eq_left

@[simp] theorem lowerPieceField_append (upper lower : Piece) :
    lowerPieceField ((upper ++ lower : Word48).setWidth 64) = lower := by
  rw [lowerPieceField, BitVec.extractLsb'_setWidth_of_le (by decide)]
  exact BitVec.extractLsb'_append_eq_right

/-- The serial field is in the domain of PACK and ENCODE (R82). -/
theorem serialInDomain_serialField (w : Word64) : serialInDomain (serialField w) = true :=
  (serialInDomain_iff _).mpr (toNat_setWidth_lt _ (by decide))

/-- What a row reads is an operation of that row. -/
@[simp] theorem row_readRow (row : Row) (w : Word64) : (readRow row w).row = row := by cases row <;> rfl

/-- R53: every word is read as a well-formed operation. -/
theorem wellFormed_readRow (row : Row) (w : Word64) : (readRow row w).wellFormed = true := by
  cases row
  case pack | encode => exact serialInDomain_serialField w
  all_goals rfl

/-- The word of an operation is zero above its row's width. -/
theorem wordOf_lt (i : Instr) : (wordOf i).toNat < 256 ^ i.row.bytes := by
  cases i
  case extFamily | extCrc | extSerialHi | extSerialLo => exact toNat_setWidth_lt _ (by decide)
  case extSerial upper lower => exact toNat_setWidth_lt (upper ++ lower) (by decide)
  all_goals exact BitVec.isLt _

/-- The row of a well-formed operation reads the operation from its word. -/
theorem readRow_wordOf {i : Instr} (h : i.wellFormed = true) : readRow i.row (wordOf i) = i := by
  cases i
  case pack family serial crc | encode family serial crc =>
    have hserial := serialField_append crc family ((serialInDomain_iff serial).mp h)
    simp [readRow, wordOf, Instr.row, hserial]
  all_goals simp [readRow, wordOf, Instr.row]

/-- `{crc, serial, family}` of a word's fields is the word, the serial cut from its 64-bit view. -/
theorem rom64_append (w : Word64) : (crcField w ++ (serialField w).extractLsb' 0 48 ++ familyField w : Word64) = w := by
  rw [serialField, extract_setWidth _ (by decide)]
  exact fields_append w

/-- The word of what a row reads from a word of its width is that word: no bit is dropped. -/
theorem wordOf_readRow {row : Row} {w : Word64} (h : w.toNat < 256 ^ row.bytes) : wordOf (readRow row w) = w := by
  cases row
  case combine | decode => exact halves_append w
  case extFamily | extCrc | extSerialHi | extSerialLo => exact setWidth_extract_of_lt (n := 32) h
  case extSerial =>
    rw [readRow, wordOf, upperPieceField, lowerPieceField, pieces_append]
    exact setWidth_extract_of_lt (n := 48) h
  case decode64 | split => rfl
  case pack | encode => exact rom64_append w

end Sys2Proof
end

/-! PROOF. The obligations of spec/30_encoding.md on all eleven rows. -/
section
namespace Sys2Proof

/-- Bytes of a row's width and what follows them are read as the row of the word they hold. -/
theorem decodeRow_append (row : Row) {front : List Byte} (rest : List Byte) (h : front.length = row.bytes) :
    decodeRow row (front ++ rest) = .ok (readRow row (BitVec.ofNat 64 (fromWire front)), rest) := by
  rw [decodeRow, ← h, takeBytes_append]

/-- What reading a row can answer: the row's reading of the first bytes, and the bytes after them. -/
theorem decodeRow_eq_ok {row : Row} {bs rest : List Byte} {i : Instr} (h : decodeRow row bs = .ok (i, rest)) :
    ∃ front : List Byte, bs = front ++ rest ∧ front.length = row.bytes ∧
      i = readRow row (BitVec.ofNat 64 (fromWire front)) := by
  cases htake : takeBytes row.bytes bs with
  | none => simp [decodeRow, htake] at h
  | some cut =>
    obtain ⟨front, rest'⟩ := cut
    obtain ⟨hbs, hlen⟩ := takeBytes_eq_some htake
    rw [hbs, decodeRow_append row rest' hlen] at h
    obtain ⟨rfl, rfl⟩ := Prod.mk.inj (Except.ok.inj h)
    exact ⟨front, hbs, hlen, rfl⟩

/-- Reading a row is refused exactly where there are too few bytes. -/
theorem decodeRow_of_length_lt {row : Row} {bs : List Byte} (h : bs.length < row.bytes) :
    decodeRow row bs = .error (.tooShort row) := by
  rw [decodeRow, (takeBytes_eq_none row.bytes bs).mpr h]

/-- The number of some bytes is below 256 to their count. -/
theorem fromWire_lt (bs : List Byte) : fromWire bs < 256 ^ bs.length := by
  have h := fromWire_toWire bs.length (fromWire bs)
  rw [toWire_fromWire] at h
  rw [h]
  exact Nat.mod_lt _ (by positivity)

/-- No row is wider than the word. -/
theorem Row.bytes_le (row : Row) : row.bytes ≤ 8 := by cases row <;> decide

/-- Bytes of a row's width have a number that fits the word. -/
theorem toNat_ofNat_fromWire {row : Row} {front : List Byte} (h : front.length = row.bytes) :
    (BitVec.ofNat 64 (fromWire front)).toNat = fromWire front := by
  have hfits : 256 ^ front.length ≤ 2 ^ 64 :=
    calc 256 ^ front.length ≤ 256 ^ 8 := Nat.pow_le_pow_right (by decide) (h ▸ row.bytes_le)
      _ = 2 ^ 64 := by norm_num
  rw [BitVec.toNat_ofNat, Nat.mod_eq_of_lt ((fromWire_lt front).trans_le hfits)]

/-- The bytes of an operation hold its word. -/
theorem ofNat_fromWire_encode (i : Instr) : BitVec.ofNat 64 (fromWire (encode i)) = wordOf i := by
  rw [encode, fromWire_toWire, Nat.mod_eq_of_lt (wordOf_lt i), BitVec.ofNat_toNat, BitVec.setWidth_eq]

/-- Settles O33: an operation's bytes hold its word, from which its row reads it back. -/
theorem rowDecodeOfEncodeIsTheOperation : Obligations.RowDecodeOfEncodeIsTheOperation := by
  intro i rest hwf
  have hlen : (encode i).length = i.row.bytes := Laws.toWire_length _ _
  rw [decodeRow_append i.row rest hlen, ofNat_fromWire_encode, readRow_wordOf hwf]

/-- Settles O34: the word of what a row reads is the word read, whose bytes are those it was read from. -/
theorem rowEncodeOfDecodeIsTheBytes : Obligations.RowEncodeOfDecodeIsTheBytes := by
  intro row bs rest i h
  obtain ⟨front, rfl, hlen, rfl⟩ := decodeRow_eq_ok h
  have hword := toNat_ofNat_fromWire hlen
  have hlt : (BitVec.ofNat 64 (fromWire front)).toNat < 256 ^ row.bytes := by
    rw [hword, ← hlen]
    exact fromWire_lt front
  refine ⟨row_readRow row _, wellFormed_readRow row _, ?_⟩
  rw [encode, row_readRow, wordOf_readRow hlt, hword, ← hlen, toWire_fromWire]

/-- Settles O35: with eight bytes there are enough for the row, with fewer there are not. -/
theorem everyPatternOfEightBytesIsLegal : Obligations.EveryPatternOfEightBytesIsLegal := by
  intro bs
  refine ⟨fun h => ?_, decodeRow_of_length_lt (row := .decode)⟩
  have hread := decodeRow_append .decode (front := bs.take 8) (bs.drop 8) (List.length_take_of_le h)
  rw [List.take_append_drop] at hread
  exact ⟨_, _, _, hread⟩

/-- Settles O37: four closed words. -/
theorem sampleWordsDecode : Obligations.SampleWordsDecode := by
  refine ⟨?_, ?_, ?_, ?_⟩ <;> decide

end Sys2Proof
end

/-! PROOF. Any order of the six operations of the block leaves what DECODE leaves (spec/40_extract.md R57): each keeps
what presenting the pair will give, COMBINE gives it, and each leaves it as it is once it is given. -/
section
namespace Sys2Proof.Machine

@[simp] theorem exec_extFamily (low : Word32) (s : State) : exec (.extFamily low) s = .next (s.presentLow low) := rfl

@[simp] theorem exec_extCrc (high : Word32) (s : State) : exec (.extCrc high) s = .next (s.presentHigh high) := rfl

@[simp] theorem exec_extSerialHi (high : Word32) (s : State) :
    exec (.extSerialHi high) s = .next (s.presentHigh high) := rfl

@[simp] theorem exec_extSerialLo (low : Word32) (s : State) :
    exec (.extSerialLo low) s = .next (s.presentLow low) := rfl

/-- `{w[31:24], w[23:0]} = w`. -/
theorem crc_piece_append (w : Word32) : (w.extractLsb' 24 8 ++ w.extractLsb' 0 24 : Word32) = w :=
  BitVec.extractLsb'_append_extractLsb' (w := 8) (len := 24)

/-- `{w[31:8], w[7:0]} = w`. -/
theorem piece_family_append (w : Word32) : (w.extractLsb' 8 24 ++ w.extractLsb' 0 8 : Word32) = w :=
  BitVec.extractLsb'_append_extractLsb' (w := 24) (len := 8)

/-- Presenting the pieces the ports carry changes nothing. -/
@[simp] theorem State.presentPieces_self (s : State) :
    s.presentPieces (s.high.extractLsb' 0 24) (s.low.extractLsb' 8 24) = s := by
  rw [State.presentPieces, crc_piece_append, piece_family_append, State.present_self]

/-- The six operations R57 evaluates together, on one pair. -/
def blockOperations (high low : Word32) : List Instr :=
  [.combine high low, .extFamily low, .extCrc high, .extSerialHi high, .extSerialLo low,
    .extSerial (high.extractLsb' 0 24) (low.extractLsb' 8 24)]

/-- An operation of the block completes, and presenting the pair afterwards gives what it gave before. -/
theorem exec_blockOperation {high low : Word32} {i : Instr} (hi : i ∈ blockOperations high low) (s : State) :
    ∃ t : State, exec i s = .next t ∧ t.present high low = s.present high low := by
  simp only [blockOperations, List.mem_cons, List.not_mem_nil, or_false] at hi
  rcases hi with rfl | rfl | rfl | rfl | rfl | rfl <;> exact ⟨_, rfl, rfl⟩

/-- An operation of the block changes nothing on the pair the ports carry. -/
theorem exec_blockOperation_self {s : State} {i : Instr} (hi : i ∈ blockOperations s.high s.low) :
    exec i s = .next s := by
  simp only [blockOperations, List.mem_cons, List.not_mem_nil, or_false] at hi
  rcases hi with rfl | rfl | rfl | rfl | rfl | rfl
  case inr.inr.inr.inr.inr => rw [exec_extSerial, State.presentPieces_self]
  all_goals rfl

/-- Operations that complete are followed by the rest. -/
theorem runAll_append {before after : List Instr} {s t : State} (h : runAll before s = .next t) :
    runAll (before ++ after) s = runAll after t := by
  induction before generalizing s with
  | nil => cases h; rfl
  | cons i before ih =>
    simp only [List.cons_append, runAll] at h ⊢
    cases hexec : exec i s with
    | next u => exact ih (by simpa only [hexec] using h)
    | fault r => simp [hexec] at h
    | refused r => simp [hexec] at h

/-- Operations of the block complete, and presenting the pair afterwards gives what it gave before. -/
theorem runAll_blockOperations {high low : Word32} {order : List Instr}
    (h : ∀ i ∈ order, i ∈ blockOperations high low) (s : State) :
    ∃ t : State, runAll order s = .next t ∧ t.present high low = s.present high low := by
  induction order generalizing s with
  | nil => exact ⟨s, rfl, rfl⟩
  | cons i order ih =>
    obtain ⟨hi, horder⟩ := List.forall_mem_cons.mp h
    obtain ⟨t, hexec, ht⟩ := exec_blockOperation hi s
    obtain ⟨u, hrun, hu⟩ := ih horder t
    exact ⟨u, by rw [runAll, hexec]; exact hrun, hu.trans ht⟩

/-- Operations of the block change nothing on the pair the ports carry. -/
theorem runAll_blockOperations_self {s : State} {order : List Instr}
    (h : ∀ i ∈ order, i ∈ blockOperations s.high s.low) : runAll order s = .next s := by
  induction order with
  | nil => rfl
  | cons i order ih =>
    obtain ⟨hi, horder⟩ := List.forall_mem_cons.mp h
    rw [runAll, exec_blockOperation_self hi]
    exact ih horder

/-- Settles O16: whatever runs before COMBINE is overwritten by it, and whatever runs after it changes nothing. -/
theorem orderOfTheOperationsIsIrrelevant : Obligations.OrderOfTheOperationsIsIrrelevant := by
  intro high low order s hperm
  have hblock : ∀ i ∈ order, i ∈ blockOperations high low := fun i hi => hperm.mem_iff.mp hi
  obtain ⟨before, after, rfl⟩ := List.append_of_mem (hperm.mem_iff.mpr List.mem_cons_self)
  obtain ⟨t, hrun, ht⟩ := runAll_blockOperations (fun i hi => hblock i (List.mem_append_left _ hi)) s
  have hafter : ∀ i ∈ after, i ∈ blockOperations high low := fun i hi =>
    hblock i (List.mem_append_right _ (List.mem_cons_of_mem _ hi))
  calc runAll (before ++ .combine high low :: after) s
      = runAll (.combine high low :: after) t := runAll_append hrun
    _ = runAll after (t.present high low) := rfl
    _ = .next (t.present high low) := runAll_blockOperations_self hafter
    _ = exec (.decode high low) s := by rw [ht, exec_decode]

end Sys2Proof.Machine
end

/-! PROOF. What the operations of the block and the reference functions can do, and what they leave as it was
(spec/40_extract.md section 1, spec/41_reference_pack_split.md R76, R82). -/
section
namespace Sys2Proof.Machine

/-- What an operation of the block can do: present a pair. -/
theorem exec_block_cases {i : Instr} {s t : State} (hi : i.row ∉ [Row.pack, Row.split, Row.encode])
    (h : exec i s = .next t) : ∃ high low : Word32, t = s.present high low := by
  cases i
  case pack | split | encode => simp [Instr.row] at hi
  case extFamily low | extSerialLo low => cases h; exact ⟨s.high, low, rfl⟩
  case extCrc high | extSerialHi high => cases h; exact ⟨high, s.low, rfl⟩
  all_goals cases h; exact ⟨_, _, rfl⟩

/-- R82: PACK that answers was inside its domain, and has left its word. -/
theorem exec_pack_eq_next {family : Byte} {serial : Word64} {crc : Byte} {s t : State}
    (h : exec (.pack family serial crc) s = .next t) :
    serial.toNat < 2 ^ 48 ∧ t = s.setRefCombined (packFields family (serial.extractLsb' 0 48) crc) := by
  rcases Nat.lt_or_ge serial.toNat (2 ^ 48) with hdom | hdom
  · rw [exec_pack_of_lt family crc s hdom] at h
    cases h
    exact ⟨hdom, rfl⟩
  · rw [exec_pack_of_ge family crc s hdom] at h
    cases h

/-- R82: ENCODE that answers was inside its domain, and has left its two words. -/
theorem exec_encode_eq_next {family : Byte} {serial : Word64} {crc : Byte} {s t : State}
    (h : exec (.encode family serial crc) s = .next t) :
    serial.toNat < 2 ^ 48 ∧ t = s.setRefWords (encodeFields family (serial.extractLsb' 0 48) crc) := by
  rcases Nat.lt_or_ge serial.toNat (2 ^ 48) with hdom | hdom
  · rw [exec_encode_of_lt family crc s hdom] at h
    cases h
    exact ⟨hdom, rfl⟩
  · rw [exec_encode_of_ge family crc s hdom] at h
    cases h

/-- What a reference function can do: leave a word, or leave two. -/
theorem exec_reference_cases {i : Instr} {s t : State} (hi : i.row ∈ [Row.pack, Row.split, Row.encode])
    (h : exec i s = .next t) : (∃ w, t = s.setRefCombined w) ∨ ∃ r, t = s.setRefWords r := by
  cases i
  case pack => exact .inl ⟨_, (exec_pack_eq_next h).2⟩
  case split => cases h; exact .inr ⟨_, rfl⟩
  case encode => exact .inr ⟨_, (exec_encode_eq_next h).2⟩
  all_goals simp [Instr.row] at hi

/-- Outputs and nets are functions of the ports: the same pair gives the same block. -/
theorem State.sameBlock_of_ports {s t : State} (hhigh : t.high = s.high) (hlow : t.low = s.low) : s.SameBlock t := by
  refine ⟨hhigh, hlow, ?_, ?_, ?_, ?_, ?_, ?_⟩
  · rw [State.family_def, State.family_def, hlow]
  · rw [State.serial_def, State.serial_def, hhigh, hlow]
  · rw [State.crc_def, State.crc_def, hhigh]
  · rw [State.combined_def, State.combined_def, hhigh, hlow]
  · rw [State.serialUpper_def, State.serialUpper_def, hhigh]
  · rw [State.serialLower_def, State.serialLower_def, hlow]

end Sys2Proof.Machine
end

/-! PROOF. What holds of the outputs and nets of every state, by bit positions (spec/10_state.md R17, R19). -/
section
namespace Sys2Proof.Machine

/-- Every output and net is the bit-position function of the ports, in every state. -/
theorem State.settled (s : State) : s.Settled :=
  ⟨s.family_eq, s.serial_eq, s.crc_eq, s.combined_eq, s.serialUpper_eq, s.serialLower_eq⟩

/-- R19: each serial net is zero outside its own half, in every state. -/
theorem State.netsShaped (s : State) : s.NetsShaped := by
  constructor
  · rw [State.serialUpper_eq]
    exact BitVec.extractLsb'_append_eq_right
  · rw [State.serialLower_eq]
    exact BitVec.extractLsb'_append_eq_left

/-- EXT.SERIAL leaves the family bits of the port `low`. -/
theorem State.presentPieces_family (s : State) (upper lower : Piece) :
    (s.presentPieces upper lower).family = s.family := by
  rw [State.family_eq, State.family_eq, State.presentPieces_low]
  exact BitVec.extractLsb'_append_eq_right

/-- EXT.SERIAL leaves the crc bits of the port `high`. -/
theorem State.presentPieces_crc (s : State) (upper lower : Piece) : (s.presentPieces upper lower).crc = s.crc := by
  rw [State.crc_eq, State.crc_eq, State.presentPieces_high]
  exact BitVec.extractLsb'_append_eq_left

/-- `serial[47:24] = high[23:0]`. -/
theorem State.serial_upper_half (s : State) : s.serial.extractLsb' 24 24 = s.high.extractLsb' 0 24 := by
  rw [State.serial_eq]
  exact BitVec.extractLsb'_append_eq_left

/-- `serial[23:0] = low[31:8]`. -/
theorem State.serial_lower_half (s : State) : s.serial.extractLsb' 0 24 = s.low.extractLsb' 8 24 := by
  rw [State.serial_eq]
  exact BitVec.extractLsb'_append_eq_right

/-- R61: as a number `serial_upper` is `high[23:0]` times 2^24. -/
theorem State.serialUpper_toNat (s : State) : s.serialUpper.toNat = (s.high.toNat % 2 ^ 24) * 2 ^ 24 := by
  rw [State.serialUpper_eq, toNat_upper_piece, BitVec.extractLsb'_toNat, Nat.shiftRight_zero]

/-- R62: as a number `serial_lower` is `low` divided by 2^8. -/
theorem State.serialLower_toNat (s : State) : s.serialLower.toNat = s.low.toNat / 2 ^ 8 := by
  have hlow := s.low.isLt
  rw [State.serialLower_eq, toNat_lower_piece, BitVec.extractLsb'_toNat, Nat.shiftRight_eq_div_pow]
  omega

end Sys2Proof.Machine
end

/-! PROOF. The obligations on what operations leave as it was, on the domain of PACK and ENCODE, and on the operands the
block's operations present. -/
section
namespace Sys2Proof.Machine

/-- Settles O24: whatever a reference function leaves, the ports are as they were. -/
theorem referenceFunctionsTouchNoPort : Obligations.ReferenceFunctionsTouchNoPort := by
  intro i s t hi h
  rcases exec_reference_cases hi h with ⟨w, rfl⟩ | ⟨r, rfl⟩
  · exact State.sameBlock_of_ports rfl rfl
  · exact State.sameBlock_of_ports rfl rfl

/-- Settles O25: an operation of the block presents a pair, and the pair the ports carry is there already. -/
theorem blockOperationsTouchNoReferenceResult : Obligations.BlockOperationsTouchNoReferenceResult := by
  constructor
  · intro i s t hi h
    obtain ⟨high, low, rfl⟩ := exec_block_cases hi h
    exact s.sameReference_present high low
  · intro s
    refine ⟨rfl, rfl, rfl, rfl, rfl, ?_, rfl, ?_⟩
    · rw [exec_extSerial, State.presentPieces_self]
    · rw [exec_decode64_append, exec_decode, State.present_self]

/-- Settles O19: PACK and ENCODE answer inside the domain and are refused outside it; a decoded serial has 48 bits. -/
theorem domainOfPackAndEncode : Obligations.DomainOfPackAndEncode := by
  constructor
  · intro family serial crc s
    refine ⟨⟨fun ⟨_, h⟩ => (exec_pack_eq_next h).1, fun hdom => ⟨_, exec_pack_of_lt family crc s hdom⟩⟩,
      ⟨fun ⟨_, h⟩ => (exec_encode_eq_next h).1, fun hdom => ⟨_, exec_encode_of_lt family crc s hdom⟩⟩, fun hout => ?_⟩
    have hge : 2 ^ 48 ≤ serial.toNat := not_lt.mp hout
    exact ⟨exec_pack_of_ge family crc s hge, exec_encode_of_ge family crc s hge⟩
  · intro high low s
    exact ⟨_, _, _, exec_decode high low s, exec_pack_of_lt _ _ s (toNat_setWidth_lt _ (by decide)),
      exec_encode_setWidth _ _ _ s⟩

/-- Settles O9: each operation presents what it reads; the port bits EXT.SERIAL leaves are the family and the crc. -/
theorem operationsPresentTheirOperands : Obligations.OperationsPresentTheirOperands := by
  intro high low upper lower s
  refine ⟨_, _, _, _, _, _, _, _, exec_combine high low s, rfl, rfl, exec_extFamily low s, rfl, rfl,
    exec_extCrc high s, rfl, rfl, exec_extSerialHi high s, rfl, rfl, exec_extSerialLo low s, rfl, rfl,
    exec_extSerial upper lower s, rfl, rfl, ?_, ?_, exec_decode high low s, rfl, rfl, ?_,
    exec_decode64_append high low s, rfl, rfl⟩
  · exact s.presentPieces_family upper lower
  · exact s.presentPieces_crc upper lower
  · exact State.settled _

end Sys2Proof.Machine
end

/-! PROOF. The obligations of spec/40_extract.md section 2 on the four pieces, and of a torn pair
(spec/70_reset_and_hazards.md R106). -/
section
namespace Sys2Proof.Machine

/-- Settles O2: the family is `low[7:0]`, which no `high` in front of it moves. -/
theorem extFamilyTakesTheLowByteOfLow : Obligations.ExtFamilyTakesTheLowByteOfLow := by
  intro low s
  have hfamily := (s.presentLow low).family_eq
  exact ⟨_, exec_extFamily low s, rfl, hfamily, rfl, fun high => hfamily.trans (extract_family_append high low).symm⟩

/-- Settles O3: the crc is `high[31:24]`, which no `low` behind it moves. -/
theorem extCrcTakesTheHighByteOfHighUnchecked : Obligations.ExtCrcTakesTheHighByteOfHighUnchecked := by
  intro high s
  have hcrc := (s.presentHigh high).crc_eq
  exact ⟨_, exec_extCrc high s, rfl, hcrc, rfl, fun low => hcrc.trans (extract_crc_append high low).symm⟩

/-- Settles O4: the piece stands in the upper half of the net. -/
theorem extSerialHiPlacesTheUpperPiece : Obligations.ExtSerialHiPlacesTheUpperPiece := by
  intro high s
  exact ⟨_, exec_extSerialHi high s, rfl, State.serialUpper_eq _, rfl, State.serialUpper_toNat _,
    State.serialUpper_le _⟩

/-- Settles O5: the piece stands in the lower half of the net. -/
theorem extSerialLoPlacesTheLowerPiece : Obligations.ExtSerialLoPlacesTheLowerPiece := by
  intro low s
  exact ⟨_, exec_extSerialLo low s, rfl, State.serialLower_eq _, rfl, State.serialLower_toNat _⟩

/-- Settles O17: the crc and the upper half of the serial are read from `high` alone, the family and the lower half from
`low` alone. -/
theorem tornPairDecodesToTheMixture : Obligations.TornPairDecodesToTheMixture := by
  intro a b s
  refine ⟨_, _, _, exec_decode _ _ s, exec_decode _ _ s, exec_decode _ _ s, rfl, ?_, rfl, ?_⟩
  · rw [State.serial_upper_half, State.serial_upper_half, State.present_high, State.present_high]
  · rw [State.serial_lower_half, State.serial_lower_half, State.present_low, State.present_low]

end Sys2Proof.Machine
end

/-! PROOF. The obligations on a step and on what the ports carry (spec/10_state.md section 1, section 3;
spec/20_memory.md section 2, section 5; spec/30_encoding.md section 1). -/
section
namespace Sys2Proof.Machine

/-- A word's bytes in wire order are read as DECODE of its halves. -/
theorem decode_toWire (w : Word64) : decode (toWire 8 w.toNat) = .ok (decodeRom w, []) := by
  have hfits : w.toNat < 256 ^ 8 := w.isLt
  have hread := decodeRow_append .decode [] (Laws.toWire_length 8 w.toNat)
  rw [List.append_nil, fromWire_toWire, Nat.mod_eq_of_lt hfits, BitVec.ofNat_toNat, BitVec.setWidth_eq] at hread
  exact hread

/-- The number of eight bytes in wire order is the last byte, six bytes from the last to the first, and the first byte,
side by side. -/
theorem ofNat_fromWire_eight (b0 b1 b2 b3 b4 b5 b6 b7 : Byte) :
    BitVec.ofNat 64 (fromWire [b0, b1, b2, b3, b4, b5, b6, b7]) =
      b7 ++ (b6 ++ b5 ++ b4 ++ b3 ++ b2 ++ b1 : Word48) ++ b0 := by
  have hserial : (b6 ++ b5 ++ b4 ++ b3 ++ b2 ++ b1 : Word48).toNat =
      ((((b6.toNat * 2 ^ 8 + b5.toNat) * 2 ^ 8 + b4.toNat) * 2 ^ 8 + b3.toNat) * 2 ^ 8 + b2.toNat) * 2 ^ 8 +
        b1.toNat := by
    rw [← toNat_append_eq_add, ← toNat_append_eq_add, ← toNat_append_eq_add, ← toNat_append_eq_add,
      ← toNat_append_eq_add]
  apply BitVec.eq_of_toNat_eq
  rw [toNat_ofNat_fromWire (row := .decode) rfl, toNat_fields, hserial]
  simp only [fromWire]
  ring

/-- Settles O36: the eight bytes are `{crc, serial, family}`, whose fields by bit position they are. -/
theorem wireOrderIsFamilySerialCrc : Obligations.WireOrderIsFamilySerialCrc := by
  intro b0 b1 b2 b3 b4 b5 b6 b7 s
  have hread := decodeRow_append .decode (front := [b0, b1, b2, b3, b4, b5, b6, b7]) [] rfl
  have hsample := s.sample_present_halves (b7 ++ (b6 ++ b5 ++ b4 ++ b3 ++ b2 ++ b1 : Word48) ++ b0)
  rw [ofNat_fromWire_eight] at hread
  rw [← packFields_eq, decodeCombined_packFields, packFields_eq] at hsample
  obtain ⟨hfamily, hserial, hcrc⟩ := RomCode.mk.inj hsample
  exact ⟨_, _, hread, exec_decode _ _ s, hfamily, hserial, hcrc⟩

/-- Settles O26: the bytes on the ports are read as `decodeRom` of the word there, which is what a step runs. -/
theorem stepRunsTheDecodedOperation : Obligations.StepRunsTheDecodedOperation := by
  constructor
  · intro s
    exact ⟨decodeRom s.fetch, decode_toWire s.fetch, wellFormed_readRow _ _⟩
  · intro s i rest h
    rw [decode_toWire] at h
    cases h
    rfl

/-- Settles O28: a step leaves the state as it is, and every state is settled. -/
theorem stepSettlesTheBlock : Obligations.StepSettlesTheBlock := by
  intro s t h
  rw [step_eq_self] at h
  cases h
  exact ⟨rfl, s.settled, rfl, rfl, ⟨rfl, rfl⟩, step_eq_self s⟩

/-- Settles O29: the function is `fieldsOf`. -/
theorem outputsDependOnTheInputsAlone : Obligations.OutputsDependOnTheInputsAlone := by
  constructor
  · exact ⟨fieldsOf, fun s => ⟨s.sample_eq, s, step_eq_self s, s.sample_eq⟩⟩
  · intro s s' hhigh hlow
    exact ⟨State.sameBlock_of_ports hhigh hlow, s, s', step_eq_self s, step_eq_self s',
      State.sameBlock_of_ports hhigh.symm hlow.symm⟩

/-- Settles O30: the nets have their shape in every state, so in every next state. -/
theorem serialNetsKeepTheirShape : Obligations.SerialNetsKeepTheirShape :=
  ⟨fun s => ⟨s.netsShaped, s.nets_disjoint⟩, fun _ _ t _ => t.netsShaped, fun _ t _ => t.netsShaped⟩

/-- Settles O31: what holds in every state holds in this one. -/
theorem resetStateIsSettled : Obligations.ResetStateIsSettled := ⟨State.settled _, State.netsShaped _⟩

/-- Settles O32: the outputs are the fields of the pair presented, and a step keeps the state. -/
theorem sampleAfterPresentIsTheDecode : Obligations.SampleAfterPresentIsTheDecode := by
  intro high low s
  exact ⟨rfl, s.sample_present high low, State.settled _, _, step_eq_self _, s.sample_present high low⟩

end Sys2Proof.Machine
end

/-! PROOF. Scripts: what a line holds and shows, and so what a script holds and shows (spec/30_encoding.md R55). -/
section
namespace Sys2Proof.Machine

/-- The pair the ports carry (R16). -/
def State.ports (s : State) : RawSearchResult := ⟨s.high, s.low⟩

/-- After a line the ports hold the pair its text says. -/
theorem ScriptLine.run_ports (s : State) (line : ScriptLine) : (line.run s).ports = line.held s.ports := by
  cases line <;> rfl

/-- No line touches a reference result. -/
theorem ScriptLine.run_sameReference (s : State) (line : ScriptLine) : s.SameReference (line.run s) := by
  cases line <;> exact ⟨rfl, rfl⟩

/-- A line shows what its text and the pair held give, before what the later lines show. -/
theorem ScriptLine.observe_append (s : State) (line : ScriptLine) (lines : List ScriptLine) :
    line.observe s ++ expectedObservations lines (line.held s.ports) =
      expectedObservations (line :: lines) s.ports := by
  cases line with
  | sample => rw [ScriptLine.observe, State.sample_eq]; rfl
  | encode family serial crc => rw [ScriptLine.observe, encodeFields_eq]; rfl
  | present high low | env operation outcome | comment => rfl

/-- After a script the ports hold the last pair presented. -/
theorem runScript_ports (lines : List ScriptLine) (s : State) :
    (runScript lines s).1.ports = heldPair lines s.ports := by
  induction lines generalizing s with
  | nil => rfl
  | cons line lines ih => rw [runScript, ih, ScriptLine.run_ports, heldPair]

/-- No script touches a reference result. -/
theorem runScript_sameReference (lines : List ScriptLine) (s : State) : s.SameReference (runScript lines s).1 := by
  induction lines generalizing s with
  | nil => exact ⟨rfl, rfl⟩
  | cons line lines ih =>
    obtain ⟨hcombined, hwords⟩ := ih (line.run s)
    obtain ⟨hcombined', hwords'⟩ := line.run_sameReference s
    exact ⟨hcombined.trans hcombined', hwords.trans hwords'⟩

/-- A script shows what the text of its lines gives. -/
theorem runScript_observations (lines : List ScriptLine) (s : State) :
    (runScript lines s).2 = expectedObservations lines s.ports := by
  induction lines generalizing s with
  | nil => rfl
  | cons line lines ih => rw [runScript, ih, ScriptLine.run_ports, ScriptLine.observe_append]

/-- Settles O38: by induction on the lines; settled the block is in every state. -/
theorem scriptsHoldTheLastPresentedPair : Obligations.ScriptsHoldTheLastPresentedPair := by
  intro lines s
  exact ⟨State.settled _, runScript_ports lines s, runScript_sameReference lines s, runScript_observations lines s⟩

end Sys2Proof.Machine
end

/-! PROOF. What `configure` and `execute_search` can do, from Laws/Environment.lean: when they succeed and
with which errors they fail (spec/60_exceptions.md section 3, spec/70_reset_and_hazards.md section 2). -/
section
namespace Sys2Proof.Machine

/-- A setting whose write fails stands against the success of all. -/
theorem not_all_settings_ok {a : BusAnswers} {done later : List Setting} {x : Setting}
    (hsettings : settings = done ++ x :: later) (hx : a.settingOk x = false) :
    ¬ ∀ y ∈ settings, a.settingOk y = true := by
  intro hall
  have hok := hall x (by simp [hsettings])
  simp [hx] at hok

/-- `configure` succeeds exactly when every setting's write does (R102). -/
theorem configure_ok_iff (cfg : BusConfig) (a : BusAnswers) :
    (configure cfg a).2 = .ok () ↔ ∀ x ∈ settings, a.settingOk x = true := by
  rcases configure_cases cfg a with ⟨hall, heq⟩ | ⟨done, x, later, hsettings, -, hx, heq⟩
  · simp only [heq, true_iff]
    exact hall
  · simp only [heq, reduceCtorEq, false_iff]
    exact not_all_settings_ok hsettings hx

/-- A failed `configure` names a setting whose write failed (R102). -/
theorem configure_eq_error {cfg : BusConfig} {a : BusAnswers} {e : EnvError} (h : (configure cfg a).2 = .error e) :
    ∃ x : Setting, e = .busError (.setting x) ∧ a.settingOk x = false := by
  rcases configure_cases cfg a with ⟨-, heq⟩ | ⟨_, x, _, -, -, hx, heq⟩ <;> rw [heq] at h
  · cases h
  · cases h
    exact ⟨x, rfl, hx⟩

/-- `execute_search` gives a pair exactly when the go and both reads succeed, and it is the pair read (R103). -/
theorem executeSearch_ok_iff (a : BusAnswers) (pair : RawSearchResult) :
    (executeSearch a).2 = .ok pair ↔ a.goOk = true ∧ a.highRead = some pair.high ∧ a.lowRead = some pair.low := by
  rcases executeSearch_cases a with
    ⟨hgo, heq⟩ | ⟨-, hhigh, heq⟩ | ⟨high, -, hhigh, hlow, heq⟩ | ⟨high, low, hgo, hhigh, hlow, heq⟩
  · simp [heq, hgo]
  · simp [heq, hhigh]
  · simp [heq, hlow]
  · cases pair
    simp [heq, hgo, hhigh, hlow]

/-- A failed `execute_search` ends in one of its own errors (R92). -/
theorem executeSearch_error_admitted {a : BusAnswers} {e : EnvError} (h : (executeSearch a).2 = .error e) :
    EnvOperation.executeSearch.admits (.fail e) = true := by
  rcases executeSearch_cases a with ⟨-, heq⟩ | ⟨-, -, heq⟩ | ⟨_, -, -, -, heq⟩ | ⟨_, _, -, -, -, heq⟩ <;>
    rw [heq] at h <;> cases h
  all_goals rfl

/-- Settles O45: both successes and both failures, as each operation's cases give them. -/
theorem sessionOperationsAreAdmitted : Obligations.SessionOperationsAreAdmitted := by
  intro cfg a
  refine ⟨configure_ok_iff cfg a, fun e h => ?_, executeSearch_ok_iff a, fun e => executeSearch_error_admitted⟩
  obtain ⟨x, rfl, hx⟩ := configure_eq_error h
  exact ⟨by cases x <;> rfl, x, rfl, hx⟩

end Sys2Proof.Machine
end

/-! PROOF. What a read attempt does: its session after a whole or a failed configuration, and the lines and calls it is
made of. -/
section
namespace Sys2Proof.Machine

/-- After a whole configuration the session searches, and uses what the search gives (R94, R101). -/
theorem session_of_all_ok (cfg : BusConfig) (a : BusAnswers) (h : ∀ x ∈ settings, a.settingOk x = true) :
    session cfg a = ((settings.map fun x => writeLine (x.call cfg) true) ++
      ((executeSearch a).1 ++ useLines (executeSearch a).2), (executeSearch a).2) := by
  rw [session, configure, writeSettings_all_ok cfg a settings h]

/-- The first setting whose write fails ends the session (R86, R102). -/
theorem session_of_first_failure (cfg : BusConfig) (a : BusAnswers) {done later : List Setting} {x : Setting}
    (hsettings : settings = done ++ x :: later) (hd : ∀ y ∈ done, a.settingOk y = true)
    (hx : a.settingOk x = false) :
    session cfg a = ((done.map fun y => writeLine (y.call cfg) true) ++ [writeLine (x.call cfg) false],
      .error (.busError (.setting x))) := by
  rw [session, configure, hsettings, writeSettings_first_failure cfg a done later x hd hx]

/-- What a session can do: search after a whole configuration, or stop at the first setting whose write fails. -/
theorem session_cases (cfg : BusConfig) (a : BusAnswers) :
    ((∀ x ∈ settings, a.settingOk x = true) ∧
      session cfg a = ((settings.map fun x => writeLine (x.call cfg) true) ++
        ((executeSearch a).1 ++ useLines (executeSearch a).2), (executeSearch a).2)) ∨
    ∃ done x later, settings = done ++ x :: later ∧ a.settingOk x = false ∧
      session cfg a = ((done.map fun y => writeLine (y.call cfg) true) ++ [writeLine (x.call cfg) false],
        .error (.busError (.setting x))) := by
  rcases settings_all_ok_or_first_failure a settings with h | ⟨done, x, later, hsettings, hd, hx⟩
  · exact .inl ⟨h, session_of_all_ok cfg a h⟩
  · exact .inr ⟨done, x, later, hsettings, hx, session_of_first_failure cfg a hsettings hd hx⟩

/-- A session gives a pair exactly when its configuration succeeds and its search gives it. -/
theorem session_ok_iff (cfg : BusConfig) (a : BusAnswers) (pair : RawSearchResult) :
    (session cfg a).2 = .ok pair ↔
      (∀ x ∈ settings, a.settingOk x = true) ∧ (executeSearch a).2 = .ok pair := by
  rcases session_cases cfg a with ⟨hall, heq⟩ | ⟨done, x, later, hsettings, hx, heq⟩
  · simp only [heq, iff_and_self]
    exact fun _ => hall
  · simp only [heq, reduceCtorEq, false_iff]
    exact fun h => not_all_settings_ok hsettings hx h.1

/-- An attempt that opens the device runs its session and closes (R95, R101, R105). -/
theorem readAttempt_of_open {a : BusAnswers} (cfg : BusConfig) (h : a.openOk = true) :
    readAttempt cfg a =
      ⟨openLine true :: ((session cfg a).1 ++ [closeLine a.closeOk]), (session cfg a).2, !a.closeOk⟩ :=
  if_pos h

/-- An attempt that fails to open the device does nothing else (log entry 12). -/
theorem readAttempt_of_open_failed {a : BusAnswers} (cfg : BusConfig) (h : a.openOk = false) :
    readAttempt cfg a = ⟨[openLine false], .error .openError, false⟩ :=
  if_neg (by simp [h])

/-- The calls of an attempt that opens the device are its session's, between the open and the close. -/
theorem calls_of_open {a : BusAnswers} (cfg : BusConfig) (h : a.openOk = true) :
    (readAttempt cfg a).calls =
      .openDevice :: ((session cfg a).1.filterMap ScriptLine.call? ++ [.closeDevice]) := by
  rw [Attempt.calls, readAttempt_of_open cfg h, List.filterMap_cons, openLine_call?, List.filterMap_append,
    List.filterMap_cons, closeLine_call?, List.filterMap_nil]

/-- The calls of a session that stops at a setting are the writes up to that setting. -/
theorem session_calls_of_first_failure (cfg : BusConfig) (done : List Setting) (x : Setting) :
    ((done.map fun y => writeLine (y.call cfg) true) ++ [writeLine (x.call cfg) false]).filterMap ScriptLine.call? =
      done.map (Setting.call cfg) ++ [x.call cfg] := by
  rw [List.filterMap_append, writeLines_calls, List.filterMap_cons, writeLine_call?, List.filterMap_nil]

/-- No setting is written to the register of the go command. -/
theorem Setting.register_ne_goCommand (x : Setting) : x.register ≠ .goCommand := by cases x <;> decide

/-- The calls of a search, where none fails. -/
def searchCalls : List Call := [goCall, readCall .searchResultHigh, readCall .searchResultLow]

/-- The calls of an attempt, where none fails. -/
def allCalls (cfg : BusConfig) : List Call :=
  .openDevice :: ((settings.map (Setting.call cfg) ++ searchCalls) ++ [.closeDevice])

/-- A search makes the first of its calls, in order. -/
theorem executeSearch_calls_sublist (a : BusAnswers) :
    ((executeSearch a).1.filterMap ScriptLine.call?).Sublist searchCalls := by
  rcases executeSearch_cases a with ⟨-, heq⟩ | ⟨-, -, heq⟩ | ⟨_, -, -, -, heq⟩ | ⟨_, _, -, -, -, heq⟩ <;>
    simp [heq, searchCalls]

/-- A session makes some of the writes and search calls, in order. -/
theorem session_calls_sublist (cfg : BusConfig) (a : BusAnswers) :
    ((session cfg a).1.filterMap ScriptLine.call?).Sublist (settings.map (Setting.call cfg) ++ searchCalls) := by
  rcases session_cases cfg a with ⟨-, heq⟩ | ⟨done, x, later, hsettings, -, heq⟩
  · rw [heq, List.filterMap_append, writeLines_calls, List.filterMap_append, useLines_calls, List.append_nil]
    exact (executeSearch_calls_sublist a).append_left _
  · rw [heq, session_calls_of_first_failure, hsettings, List.map_append, List.map_cons]
    simp

/-- An attempt makes some of all its calls, in order. -/
theorem calls_sublist (cfg : BusConfig) (a : BusAnswers) : (readAttempt cfg a).calls.Sublist (allCalls cfg) := by
  cases hopen : a.openOk with
  | false => simp [Attempt.calls, readAttempt_of_open_failed cfg hopen, allCalls]
  | true =>
    rw [calls_of_open cfg hopen]
    exact ((session_calls_sublist cfg a).append_right _).cons_cons _

/-- The calls of an attempt in which none fails are distinct: each names its own register. -/
theorem allCalls_nodup (cfg : BusConfig) : (allCalls cfg).Nodup := by
  simp [allCalls, searchCalls, settings, Setting.call, Setting.register, goCall, readCall]

/-- The line records an operation of the environment with an outcome that operation has. -/
def ScriptLine.AdmittedEnv (line : ScriptLine) : Prop :=
  ∃ (operation : EnvOperation) (outcome : EnvOutcome), line = .env operation outcome ∧ operation.admits outcome = true

/-- An environment's operation neither presents nor samples. -/
theorem ScriptLine.AdmittedEnv.leavesTheBlock {line : ScriptLine} (h : line.AdmittedEnv) : line.LeavesTheBlock := by
  obtain ⟨operation, outcome, rfl, -⟩ := h
  exact ⟨nofun, nofun⟩

theorem openLine_admitted (ok : Bool) : (openLine ok).AdmittedEnv := ⟨_, _, rfl, by cases ok <;> rfl⟩

theorem writeLine_admitted (name : RegisterName) (value : Word32) (ok : Bool) :
    (writeLine (.writeRegister name value) ok).AdmittedEnv := ⟨_, _, rfl, by cases ok <;> rfl⟩

theorem readLine_admitted (name : RegisterName) (value : Option Word32) : (readLine name value).AdmittedEnv := by
  cases value <;> exact ⟨_, _, rfl, rfl⟩

theorem closeLine_admitted (ok : Bool) : (closeLine ok).AdmittedEnv := ⟨_, _, rfl, by cases ok <;> rfl⟩

/-- A search writes down admitted outcomes only. -/
theorem executeSearch_lines_admitted (a : BusAnswers) : ∀ line ∈ (executeSearch a).1, line.AdmittedEnv := by
  have hgo : ∀ ok, (writeLine goCall ok).AdmittedEnv := writeLine_admitted _ _
  rcases executeSearch_cases a with ⟨-, heq⟩ | ⟨-, -, heq⟩ | ⟨_, -, -, -, heq⟩ | ⟨_, _, -, -, -, heq⟩ <;>
    simp [heq, hgo, readLine_admitted]

/-- A session writes down admitted outcomes, and uses the pair it gives. -/
theorem session_lines {cfg : BusConfig} {a : BusAnswers} {line : ScriptLine} (h : line ∈ (session cfg a).1) :
    line.AdmittedEnv ∨ line ∈ useLines (session cfg a).2 := by
  have hsetting : ∀ (x : Setting) (ok : Bool), (writeLine (x.call cfg) ok).AdmittedEnv :=
    fun x => writeLine_admitted x.register (x.value cfg)
  rcases session_cases cfg a with ⟨-, heq⟩ | ⟨done, x, later, -, -, heq⟩
  · simp only [heq, List.mem_append, List.mem_map] at h ⊢
    rcases h with ⟨y, -, rfl⟩ | hsearch | huse
    · exact .inl (hsetting y true)
    · exact .inl (executeSearch_lines_admitted a line hsearch)
    · exact .inr huse
  · simp only [heq, List.mem_append, List.mem_map, List.mem_singleton] at h
    rcases h with ⟨y, -, rfl⟩ | rfl
    · exact .inl (hsetting y true)
    · exact .inl (hsetting x false)

/-- An attempt writes down admitted outcomes, and uses the pair it gives. -/
theorem readAttempt_lines {cfg : BusConfig} {a : BusAnswers} {line : ScriptLine}
    (h : line ∈ (readAttempt cfg a).script) : line.AdmittedEnv ∨ line ∈ useLines (readAttempt cfg a).result := by
  cases hopen : a.openOk with
  | false =>
    simp only [readAttempt_of_open_failed cfg hopen, List.mem_singleton] at h
    exact .inl (h ▸ openLine_admitted false)
  | true =>
    simp only [readAttempt_of_open cfg hopen, List.mem_cons, List.mem_append, List.not_mem_nil, or_false] at h ⊢
    rcases h with rfl | hsession | rfl
    · exact .inl (openLine_admitted true)
    · exact session_lines hsession
    · exact .inl (closeLine_admitted a.closeOk)

/-- A failed attempt neither presents nor samples (R94). -/
theorem leavesTheBlock_of_error {cfg : BusConfig} {a : BusAnswers} {e : EnvError}
    (h : (readAttempt cfg a).result = .error e) :
    ∀ line ∈ (readAttempt cfg a).script, line.LeavesTheBlock := by
  intro line hline
  rcases readAttempt_lines hline with hadmitted | huse
  · exact hadmitted.leavesTheBlock
  · simp [h, useLines] at huse

end Sys2Proof.Machine
end

/-! PROOF. The obligations on a read attempt. -/
section
namespace Sys2Proof.Machine

/-- Settles O39: the session ends at the setting, so only the writes up to it stand between open and close. -/
theorem failedSettingPreventsTheSearch : Obligations.FailedSettingPreventsTheSearch := by
  intro cfg a done x later hsettings hd hx hopen
  have hsession := session_of_first_failure cfg a hsettings hd hx
  have hresult : (readAttempt cfg a).result = .error (.busError (.setting x)) := by
    rw [readAttempt_of_open cfg hopen, hsession]
  have hcalls : (readAttempt cfg a).calls =
      .openDevice :: (done.map (Setting.call cfg) ++ [x.call cfg]) ++ [.closeDevice] := by
    rw [calls_of_open cfg hopen, hsession, session_calls_of_first_failure, List.cons_append]
  refine ⟨hresult, hcalls, fun v => ?_, fun r d => ?_, leavesTheBlock_of_error hresult⟩
  · simp [hcalls, Setting.call, Setting.register_ne_goCommand, x.register_ne_goCommand.symm]
  · simp [hcalls, Setting.call]

/-- Settles O40: the close stands last, and no call is made twice. -/
theorem handleIsClosedExactlyOnce : Obligations.HandleIsClosedExactlyOnce := by
  intro cfg a hopen
  have hcalls := calls_of_open cfg hopen
  have hnodup : (readAttempt cfg a).calls.Nodup := (allCalls_nodup cfg).sublist (calls_sublist cfg a)
  refine ⟨List.count_eq_one_of_mem hnodup (by simp [hcalls]), ?_, ?_, ?_, fun b => ⟨?_, ?_⟩⟩
  · rw [hcalls, ← List.cons_append, List.getLast?_concat]
  · rw [readAttempt_of_open cfg hopen, ← List.cons_append, List.getLast?_concat]
  · rw [readAttempt_of_open cfg hopen]
  · rw [readAttempt_of_open cfg hopen, readAttempt_of_open cfg (a := { a with closeOk := b }) hopen]
    rfl
  · rw [hcalls, calls_of_open cfg (a := { a with closeOk := b }) hopen]
    rfl

/-- Settles O41: with every call answered the attempt evaluates to its eleven lines, and what follows the eight answers
before the presentation is the sample of the pair. -/
theorem successfulAttemptReachesTheBlock : Obligations.SuccessfulAttemptReachesTheBlock := by
  intro cfg high low closeOk leftover s
  refine ⟨_, rfl, rfl, rfl, ?_, rfl, rfl, _, step_eq_self _, State.sample_eq _⟩
  rw [runScript_observations]
  exact List.mem_of_getElem? (i := 8) rfl

/-- Settles O42: the result is that of the session, and a failed one gives no line that presents or samples. -/
theorem noPairAfterAFailure : Obligations.NoPairAfterAFailure := by
  intro cfg a
  refine ⟨fun pair => ?_, fun e leftover s herror => ⟨leavesTheBlock_of_error herror, _, step_eq_self _, ?_, ?_, ?_⟩⟩
  · cases hopen : a.openOk with
    | false => simp [readAttempt_of_open_failed cfg hopen]
    | true => simp only [readAttempt_of_open cfg hopen, session_ok_iff, executeSearch_ok_iff, true_and]
  · rw [State.afterAttempt, herror, State.present_high]
  · rw [State.afterAttempt, herror, State.present_low]
  · rw [State.afterAttempt, herror, State.sample_present]

/-- Settles O43: the calls made are some of the calls of an attempt in which none fails, in order. -/
theorem noCallIsRetried : Obligations.NoCallIsRetried := fun cfg a =>
  (allCalls_nodup cfg).sublist (calls_sublist cfg a)

/-- Settles O44: the lines an attempt adds beside admitted ones present and sample. -/
theorem attemptLinesAreAdmitted : Obligations.AttemptLinesAreAdmitted := by
  intro cfg a operation outcome hline
  rcases readAttempt_lines hline with ⟨_, _, heq, hadmits⟩ | huse
  · cases heq
    exact hadmits
  · cases hresult : (readAttempt cfg a).result <;> simp [hresult, useLines] at huse

/-- Settles O46: the attempt is its open line. -/
theorem failedOpenEndsTheAttempt : Obligations.FailedOpenEndsTheAttempt := by
  intro cfg a hopen
  rw [readAttempt_of_open_failed cfg hopen]
  exact ⟨rfl, rfl, rfl, rfl⟩

end Sys2Proof.Machine
end
